-- ==== Sys2Proof/Word.lean ====
section
/-! DEFINITION. The bit vectors the spec gives a width: a stream byte (00_scope.md R8 `DATA_W`), the payload
word (`WORD_W`) and the port-cycle word (30_encoding.md R71). -/

namespace Sys2Proof

/-- One byte of the stream or of a payload register (`DATA_W` = 8, 00_scope.md R8). -/
abbrev Byte := BitVec 8

/-- The payload word `{p3, p2, p1, p0}` (`WORD_W` = 32, 00_scope.md R8). -/
abbrev Word := BitVec 32

/-- The word sampled at a rising clock edge: `rst`, `in_end`, `in_valid`, `in_data` (30_encoding.md R71). -/
abbrev PortWord := BitVec 11

end Sys2Proof
end

