-- ==== Sys2Proof/Syntax.lean ====
section
/-! DEFINITION. The five tokens of spec/opcode_table.json (30_encoding.md R72). They are the block's only
"instructions" (00_scope.md R2). -/

namespace Sys2Proof

/-- A token: what one rising clock edge asks of the scanner. Ignored bits of the port-cycle word have no place
here (30_encoding.md R73). -/
inductive Instr where
  /-- IDLE: no byte and no end at this edge (40_scan_operations.md R101). -/
  | idle
  /-- BYTE b: the next byte of the current chunk (R102). -/
  | byte (b : Byte)
  /-- END: the current chunk ends (R108). -/
  | endChunk
  /-- BYTE_END b: the chunk's last byte, and its end, at one edge (R109). -/
  | byteEnd (b : Byte)
  /-- RESET: every register returns to its reset value (R110). -/
  | reset
  deriving DecidableEq, Repr

end Sys2Proof
end

