-- ==== Sys2Proof/Config.lean ====
section
/-! DEFINITION. The scanner's fixed parameters (00_scope.md R8) and the values the spec leaves free. -/

namespace Sys2Proof.Config

/-- `SYNC`, the marker byte (00_scope.md R8). -/
def sync : Byte := 0xAA#8

/-- `TYPE_LEN`: one packet-type byte (00_scope.md R8). -/
def typeLen : Nat := 1

/-- `PAYLOAD_LEN`: four logical payload bytes (00_scope.md R8). -/
def payloadLen : Nat := 4

/-- `MIN_FRAME_RAW`: the sync byte, the type byte and four unstuffed payload bytes (00_scope.md R8). -/
def minFrameRaw : Nat := 1 + typeLen + payloadLen

/-- `MAX_FRAME_RAW`: the same with every payload byte stuffed (00_scope.md R8). -/
def maxFrameRaw : Nat := 1 + typeLen + payloadLen * 2

/-- `CHUNK_MAX`, a parameter of the HOST: the block accepts a chunk of any length (00_scope.md R8, decision D11). -/
def chunkMax : Nat := 12

/-- FREE VALUE (log entry 1): what `res_payload` holds after the n-th Incomplete result, "a draw, a free input of
that step under no law" (10_state.md R29, decision D9). -/
opaque payloadDraw : Nat → Word

/-- FREE VALUE (log entry 2): the word the host drives at the n-th edge for which the model's input lists none.
The host may drive any word at any edge (60_exceptions.md R182, R190). -/
opaque hostWord : Nat → PortWord

end Sys2Proof.Config
end

