-- ==== Sys2Proof/WellFormed.lean ====
section
/-! DEFINITION. What the spec asks of a written token program. A token itself can not be ill-formed: its only operand
is a byte, and every byte value is legal (30_encoding.md R74, R79). The checks that can fail are on the canonical word
(R72) and on the arguments of the pseudo-tokens (R84). -/

namespace Sys2Proof

/-- Every token is legal at every time with any byte (30_encoding.md R74, 60_exceptions.md R176). One arm per
constructor, so that a token added later must be judged here. -/
def Instr.wellFormed (i : Instr) : Bool :=
  match i with
  | .idle => true
  | .byte _ => true
  | .endChunk => true
  | .byteEnd _ => true
  | .reset => true

/-- "The canonical encoding of a token writes every ignored bit as 0" (30_encoding.md R72): with `rst` high all ten
other bits are ignored, with `in_valid` low `in_data` is. -/
def PortWord.canonical (w : PortWord) : Bool :=
  if w.getLsbD 10 then w == 0x400#11
  else w.getLsbD 8 || w.extractLsb' 0 8 == 0#8

/-- `FRAME t, q` is written only with `t != 0xAA` (30_encoding.md R84, R75). -/
def frameTypeWellFormed (t : Byte) : Bool := t != Config.sync

/-- `CHUNKJ` is written only for a chunk of one byte or more (30_encoding.md R84). -/
def chunkJWellFormed (chunk : List Byte) : Bool := !chunk.isEmpty

end Sys2Proof
end

