-- ==== Sys2Proof/Decode.lean ====
section
/-! DEFINITION. The token decode of 30_encoding.md R72 to R74, the encoder, and the input ports of R70 and R71. -/

namespace Sys2Proof

/-- The input ports sampled at a rising edge (30_encoding.md R70; `clk` is the edge itself). -/
structure InPorts where
  rst     : Bool
  inEnd   : Bool
  inValid : Bool
  inData  : Byte
  deriving DecidableEq, Repr

/-- The port-cycle word of the sampled ports: `rst` is W[10], `in_end` W[9], `in_valid` W[8] and `in_data` W[7:0]
(30_encoding.md R71). -/
def InPorts.word (p : InPorts) : PortWord :=
  BitVec.ofBool p.rst ++ BitVec.ofBool p.inEnd ++ BitVec.ofBool p.inValid ++ p.inData

/-- The ports that a port-cycle word stands for (30_encoding.md R71). -/
def InPorts.ofWord (w : PortWord) : InPorts where
  rst     := w.getLsbD 10
  inEnd   := w.getLsbD 9
  inValid := w.getLsbD 8
  inData  := w.extractLsb' 0 8

/-- One row of the token table (30_encoding.md R72, spec/opcode_table.json). -/
structure TokenRow where
  mnemonic : String
  mask     : PortWord
  pattern  : PortWord
  deriving DecidableEq, Repr

/-- The token table as 30_encoding.md R72 prints it. -/
def tokenRows : List TokenRow :=
  [ ⟨"IDLE",     0x700#11, 0x000#11⟩,
    ⟨"BYTE",     0x700#11, 0x100#11⟩,
    ⟨"END",      0x700#11, 0x200#11⟩,
    ⟨"BYTE_END", 0x700#11, 0x300#11⟩,
    ⟨"RESET",    0x400#11, 0x400#11⟩ ]

/-- A word matches a row when its bits under the row's mask are the row's pattern (30_encoding.md R72). -/
def TokenRow.matchesWord (r : TokenRow) (w : PortWord) : Bool := w &&& r.mask == r.pattern

/-- The table's name of a token. -/
def Instr.mnemonic (i : Instr) : String :=
  match i with
  | .idle => "IDLE"
  | .byte _ => "BYTE"
  | .endChunk => "END"
  | .byteEnd _ => "BYTE_END"
  | .reset => "RESET"

/-- The token the sampled ports select. RESET takes priority over every other input (60_exceptions.md R174);
`in_data` counts only with `in_valid` (30_encoding.md R73). -/
def decodePorts (p : InPorts) : Instr :=
  if p.rst then .reset
  else match p.inEnd, p.inValid with
    | false, false => .idle
    | false, true  => .byte p.inData
    | true,  false => .endChunk
    | true,  true  => .byteEnd p.inData

/-- Token decode, total: "Every one of the 2048 values of W matches exactly one row" (30_encoding.md R74). -/
def decodeWord (w : PortWord) : Instr := decodePorts (InPorts.ofWord w)

/-- The canonical word of a token, every ignored bit 0 (30_encoding.md R72). -/
def encode (i : Instr) : PortWord :=
  match i with
  | .idle      => 0x000#11
  | .byte b    => 0x100#11 ||| b.zeroExtend 11
  | .endChunk  => 0x200#11
  | .byteEnd b => 0x300#11 ||| b.zeroExtend 11
  | .reset     => 0x400#11

/-- Why a number is no port-cycle word. -/
inductive DecodeError where
  /-- The number has a bit above W[10], and the block has no pin for it (30_encoding.md R71). Safe. -/
  | widerThanPort
  deriving DecidableEq, Repr

/-- A number read as a port-cycle word: it must fit in the eleven bits (30_encoding.md R71). -/
def portWordOfNat (n : Nat) : Except DecodeError PortWord :=
  if n < 2 ^ 11 then .ok (BitVec.ofNat 11 n) else .error .widerThanPort

/-- Decoding of any number: the token of a port-cycle word, or a rejection by name. -/
def decodeNat (n : Nat) : Except DecodeError Instr :=
  match portWordOfNat n with
  | .ok w    => .ok (decodeWord w)
  | .error e => .error e

/-- The word `w` of the opcode table, given `nbits` bits, read by the decoder above. The port-cycle word is sampled from
eleven pins at once and is stored nowhere, so no byte order enters. -/
def decodeTableWord (nbits w : Nat) : Option Instr :=
  (decodeNat (w % 2 ^ nbits)).toOption

end Sys2Proof
end

