-- ==== Sys2Proof/Machine/State.lean ====
section
/-! DEFINITION. The scanner's registers as plain data (10_state.md R20 to R25), the host's words still to come, and
the state right after RESET (R31). -/

namespace Sys2Proof.Machine

/-- The five phases of 10_state.md R21. RETRY is no phase: it is the result END reports in every phase but EMIT.
The unreachable codes of 30_encoding.md R82 have no constructor, as the rule allows. -/
inductive Phase where
  /-- SEEK_SYNC: no sync candidate yet, and the last byte seen was not 0xAA. -/
  | seekSync
  /-- CONSUME_TYPE: no sync candidate yet, and the last byte seen was 0xAA. -/
  | consumeType
  /-- COLLECT_PAYLOAD: the next byte is payload byte number k. -/
  | collectPayload
  /-- STUFF_SKIP: the next byte is the stuffing byte. -/
  | stuffSkip
  /-- EMIT: four payload bytes have been collected. -/
  | emit
  deriving DecidableEq, Repr

/-- The values of `res_reason` (30_encoding.md R81). -/
inductive Reason where
  /-- NONE: no result published since RESET. -/
  | none
  /-- DECODED: the chunk held a frame. -/
  | decoded
  /-- NO_SYNC: the chunk held no sync candidate. -/
  | noSync
  /-- SHORT_FRAME: a sync candidate, but fewer than four payload bytes. -/
  | shortFrame
  deriving DecidableEq, Repr

/-- The reasons an Incomplete result can carry (00_scope.md R11). -/
inductive IncompleteReason where
  | noSync
  | shortFrame
  deriving DecidableEq, Repr

/-- What a step publishes (00_scope.md R11). -/
inductive Result where
  /-- The four payload bytes in arrival order. -/
  | decoded (p0 p1 p2 p3 : Byte)
  /-- No payload accompanies it. -/
  | incomplete (reason : IncompleteReason)
  deriving DecidableEq, Repr

/-- The core state `(phase, k, p0, p1, p2, p3)` (10_state.md R20). -/
structure CoreState where
  phase : Phase
  /-- The number of payload bytes collected, three bits (R22). -/
  k     : BitVec 3
  p0    : Byte
  p1    : Byte
  p2    : Byte
  p3    : Byte
  deriving DecidableEq, Repr

/-- The result registers, which drive the output ports of the same names (10_state.md R25). -/
structure ResultRegs where
  /-- `res_valid` -/
  valid   : Bool
  /-- `res_decoded` -/
  decoded : Bool
  /-- `res_reason` -/
  reason  : Reason
  /-- `res_payload` -/
  payload : Word
  deriving DecidableEq, Repr

/-- The block's registers, the words the host drives at the coming edges, and the model's own counters. -/
structure State where
  /-- The core registers (10_state.md R20). -/
  core         : CoreState
  /-- The result registers (10_state.md R25). -/
  res          : ResultRegs
  /-- MODEL'S OWN (log entry 3): RESET has been applied, the launch premise of 70_reset_and_hazards.md R203. -/
  resetApplied : Bool
  /-- HOST INPUT, no register (log entry 2; 10_state.md R32): the words on the pins at the coming edges, the next first. -/
  input        : List PortWord
  /-- MODEL'S OWN (log entry 1): the draws taken so far for `res_payload` (10_state.md R29). -/
  payloadDraws : Nat
  /-- MODEL'S OWN (log entry 2): the edges so far for which `input` listed no word. -/
  hostDraws    : Nat
  deriving DecidableEq, Repr

/-- Why a step faults: never. "No token, in any reachable state, with any byte value, raises an exception, faults,
traps, hangs or refuses" (60_exceptions.md R170), so there is no constructor. -/
inductive Fault where
  deriving DecidableEq, Repr

/-- Why a step is refused. Each one is safe: the machine stops, and nothing is claimed of what hardware would do. -/
inductive Refusal where
  /-- The instruction named has no meaning yet; raised by a refused arm of `exec` alone. Safe. -/
  | notModelled (mnemonic : String)
  /-- IDLE, BYTE, END or BYTE_END before the first RESET: "A token offered before the first RESET is refused"
  (70_reset_and_hazards.md R203). Raised by `afterReset`. Safe. -/
  | beforeReset
  /-- A payload byte in COLLECT_PAYLOAD when k is above 3, so that no register p(k) exists. No state after RESET is such
  (10_state.md R22). For k = 5..7 the spec's treatment is "refuse" (93_implementation_defined.md S3); for k = 4 the stop is
  the model's choice (DESIGN CHOICE, log entry 4). Raised by BYTE and BYTE_END. Safe. -/
  | countOutOfRange
  deriving DecidableEq, Repr

/-- The machine right after RESET: every register at its value of 10_state.md R31, no host word listed, no draw
taken. -/
def State.reset : State where
  core := { phase := .seekSync, k := 0#3, p0 := 0x00#8, p1 := 0x00#8, p2 := 0x00#8, p3 := 0x00#8 }
  res := { valid := false, decoded := false, reason := .none, payload := 0x00000000#32 }
  resetApplied := true
  input := []
  payloadDraws := 0
  hostDraws := 0

end Sys2Proof.Machine
end

