-- ==== Sys2Proof/Machine/Operands.lean ====
section
/-! DEFINITION. The payload registers as the operands of BYTE and END (10_state.md R23, 30_encoding.md R79) and the
phase's port code (R80). -/

namespace Sys2Proof.Machine

/-- The 3-bit phase code (30_encoding.md R80). -/
def Phase.code (p : Phase) : BitVec 3 :=
  match p with
  | .seekSync       => 0b000#3
  | .consumeType    => 0b001#3
  | .collectPayload => 0b010#3
  | .stuffSkip      => 0b011#3
  | .emit           => 0b100#3

/-- The core registers as RESET and END leave them (10_state.md R31, 40_scan_operations.md R108, R110). -/
def CoreState.cleared : CoreState where
  phase := .seekSync
  k := 0#3
  p0 := 0x00#8
  p1 := 0x00#8
  p2 := 0x00#8
  p3 := 0x00#8

/-- `p(k) <- b` for k = 0..3 (40_scan_operations.md R105); there is no register p(k) for another k. -/
def CoreState.storePayload (c : CoreState) (b : Byte) : Option CoreState :=
  match c.k.toNat with
  | 0 => some { c with p0 := b }
  | 1 => some { c with p1 := b }
  | 2 => some { c with p2 := b }
  | 3 => some { c with p3 := b }
  | _ => none

/-- `payload_word = {p3, p2, p1, p0}`: p0 in bits 7:0 (30_encoding.md R79, 20_memory.md R52). -/
def payloadWord (p0 p1 p2 p3 : Byte) : Word := p3 ++ p2 ++ p1 ++ p0

/-- The payload word of the payload registers (30_encoding.md R79). -/
def CoreState.word (c : CoreState) : Word := payloadWord c.p0 c.p1 c.p2 c.p3

/-- Byte j of a payload word, j = 0 the least significant: the other view of the same four bytes (20_memory.md R53). -/
def wordByte (w : Word) (j : Nat) : Byte := w.extractLsb' (8 * j) 8

end Sys2Proof.Machine
end

