-- ==== Sys2Proof/Machine/Flags.lean ====
section
/-! DEFINITION. The status flags `res_valid` and `res_decoded` and the status code `res_reason` (10_state.md R25, R28):
their codes, the values each result gives them, and the result they stand for. -/

namespace Sys2Proof.Machine

/-- The 2-bit reason code (30_encoding.md R81). -/
def Reason.code (r : Reason) : BitVec 2 :=
  match r with
  | .none       => 0b00#2
  | .decoded    => 0b01#2
  | .noSync     => 0b10#2
  | .shortFrame => 0b11#2

/-- The reason code of an Incomplete result (30_encoding.md R81). -/
def IncompleteReason.toReason (r : IncompleteReason) : Reason :=
  match r with
  | .noSync     => .noSync
  | .shortFrame => .shortFrame

/-- The result registers after RESET (10_state.md R31). -/
def ResultRegs.cleared : ResultRegs where
  valid := false
  decoded := false
  reason := .none
  payload := 0x00000000#32

/-- `res_valid <- 0`, the held fields kept: what every step that publishes no result does (10_state.md R25). -/
def ResultRegs.clearValid (r : ResultRegs) : ResultRegs := { r with valid := false }

/-- The registers that publish a Decoded result (40_scan_operations.md R108). -/
def ResultRegs.ofDecoded (w : Word) : ResultRegs where
  valid := true
  decoded := true
  reason := .decoded
  payload := w

/-- The registers that publish an Incomplete result; the payload is the step's draw (40_scan_operations.md R108). -/
def ResultRegs.ofIncomplete (r : IncompleteReason) (draw : Word) : ResultRegs where
  valid := true
  decoded := false
  reason := r.toReason
  payload := draw

/-- The result of a chunk that ends with the core in this state, read off the phase (40_scan_operations.md R108,
60_exceptions.md R171). -/
def CoreState.result (c : CoreState) : Result :=
  match c.phase with
  | .emit           => .decoded c.p0 c.p1 c.p2 c.p3
  | .seekSync       => .incomplete .noSync
  | .consumeType    => .incomplete .noSync
  | .collectPayload => .incomplete .shortFrame
  | .stuffSkip      => .incomplete .shortFrame

/-- The result that the registers show as just published, if any: `res_valid` marks the step (10_state.md R25), and the
payload is read only when decoded (R29). -/
def ResultRegs.published (r : ResultRegs) : Option Result :=
  if r.valid then
    if r.decoded then
      some (.decoded (wordByte r.payload 0) (wordByte r.payload 1) (wordByte r.payload 2) (wordByte r.payload 3))
    else match r.reason with
      | .noSync     => some (.incomplete .noSync)
      | .shortFrame => some (.incomplete .shortFrame)
      | .none       => none
      | .decoded    => none
  else none

end Sys2Proof.Machine
end

