-- ==== Sys2Proof/Machine/Ops.lean ====
section
/-! DEFINITION. The shared operations of the token meanings: the launch premise, publishing a chunk's result, RESET,
sampling the input ports, and the output ports.

No exception entry stands here: the block has no trap, saves nothing and has no vector or handler
(60_exceptions.md R170, R175). -/

namespace Sys2Proof.Machine

/-- A token other than RESET has a meaning only once RESET has been applied (60_exceptions.md R183,
70_reset_and_hazards.md R203). -/
def afterReset (s : State) (k : Host.Outcome State Fault Refusal) : Host.Outcome State Fault Refusal :=
  if s.resetApplied then k else .refused .beforeReset

/-- Every step that publishes no result: `res_valid <- 0` (10_state.md R25). -/
def State.clearValid (s : State) : State := { s with res := s.res.clearValid }

/-- The core registers replaced, everything else kept. -/
def State.setCore (s : State) (c : CoreState) : State := { s with core := c }

/-- A chunk ends: publish its one result and start afresh (40_scan_operations.md R108). Only an Incomplete result takes
a draw (R100). -/
def State.publish (s : State) : State :=
  match s.core.result with
  | .decoded _ _ _ _ =>
    { s with core := CoreState.cleared, res := ResultRegs.ofDecoded s.core.word }
  | .incomplete r =>
    { s with
      core := CoreState.cleared
      res := ResultRegs.ofIncomplete r (Config.payloadDraw s.payloadDraws)
      payloadDraws := s.payloadDraws + 1 }

/-- RESET: every register to its reset value (40_scan_operations.md R110). The host's words and the draws taken are no
registers, so they stand. -/
def State.applyReset (s : State) : State :=
  { s with core := CoreState.cleared, res := ResultRegs.cleared, resetApplied := true }

/-- The word on the input ports at the next edge (30_encoding.md R85): the host's next listed word, or any word at all
where the list has ended (log entry 2). -/
def State.sampledWord (s : State) : PortWord :=
  match s.input with
  | w :: _ => w
  | []     => Config.hostWord s.hostDraws

/-- The state once that word has been taken from the host: each word is consumed exactly once, in offer order
(20_memory.md R51). -/
def State.afterSample (s : State) : State :=
  match s.input with
  | _ :: ws => { s with input := ws }
  | []      => { s with hostDraws := s.hostDraws + 1 }

/-- The host's coming words, with one more driven first. -/
def State.pushWord (s : State) (w : PortWord) : State := { s with input := w :: s.input }

/-- The output ports (30_encoding.md R70). phase, k and p0..p3 have none (10_state.md R30). -/
structure OutPorts where
  resValid   : BitVec 1
  resDecoded : BitVec 1
  resReason  : BitVec 2
  resPayload : BitVec 32
  deriving DecidableEq, Repr

/-- "Outputs are driven from registers only" (30_encoding.md R85). Reading them changes nothing (20_memory.md R55). -/
def State.outPorts (s : State) : OutPorts where
  resValid   := BitVec.ofBool s.res.valid
  resDecoded := BitVec.ofBool s.res.decoded
  resReason  := s.res.reason.code
  resPayload := s.res.payload

/-- The result the last step published (40_scan_operations.md R100, the step's `Option Result`). -/
def State.published (s : State) : Option Result := s.res.published

end Sys2Proof.Machine
end

