-- ==== Sys2Proof/Machine/Scan.lean ====
section
/-! DEFINITION. The meanings of the five tokens (40_scan_operations.md R101 to R110). -/

namespace Sys2Proof.Machine

/-- BYTE b in SEEK_SYNC (40_scan_operations.md R103). -/
def byteInSeekSync (b : Byte) (c : CoreState) : CoreState :=
  if b = Config.sync then { c with phase := .consumeType } else c

/-- BYTE b in CONSUME_TYPE (40_scan_operations.md R104): the last 0xAA of a run is the sync byte. -/
def byteInConsumeType (b : Byte) (c : CoreState) : CoreState :=
  if b = Config.sync then c else { c with phase := .collectPayload, k := 0#3 }

/-- BYTE b in COLLECT_PAYLOAD (40_scan_operations.md R105): the byte stored is the one at the cursor, 0xAA included
(90_conflicts.md C2), and the fourth needs no stuffing byte. -/
def byteInCollectPayload (b : Byte) (c : CoreState) : Option CoreState :=
  match c.storePayload b with
  | none => none
  | some c' =>
    some { c' with
      k := c.k + 1#3
      phase := if c.k + 1#3 = 4#3 then .emit else if b = Config.sync then .stuffSkip else .collectPayload }

/-- BYTE b in STUFF_SKIP (40_scan_operations.md R106): the byte is discarded, whatever its value. -/
def byteInStuffSkip (_b : Byte) (c : CoreState) : CoreState := { c with phase := .collectPayload }

/-- BYTE b in EMIT (40_scan_operations.md R107): the byte is discarded. -/
def byteInEmit (_b : Byte) (c : CoreState) : CoreState := c

/-- What the next byte of the chunk does to the core (40_scan_operations.md R102). `none`: k names no payload
register, which no state after RESET has (10_state.md R22). -/
def CoreState.consume (c : CoreState) (b : Byte) : Option CoreState :=
  match c.phase with
  | .seekSync       => some (byteInSeekSync b c)
  | .consumeType    => some (byteInConsumeType b c)
  | .collectPayload => byteInCollectPayload b c
  | .stuffSkip      => some (byteInStuffSkip b c)
  | .emit           => some (byteInEmit b c)

/-- IDLE (40_scan_operations.md R101). -/
def execIdle (s : State) : Host.Outcome State Fault Refusal :=
  afterReset s (.next s.clearValid)

/-- BYTE b (40_scan_operations.md R102). -/
def execByte (b : Byte) (s : State) : Host.Outcome State Fault Refusal :=
  afterReset s
    (match s.core.consume b with
     | some c => .next (s.setCore c).clearValid
     | none   => .refused .countOutOfRange)

/-- END (40_scan_operations.md R108). -/
def execEnd (s : State) : Host.Outcome State Fault Refusal :=
  afterReset s (.next s.publish)

/-- BYTE_END b: the byte first, then the end, which reads the core as the byte left it (40_scan_operations.md R109). -/
def execByteEnd (b : Byte) (s : State) : Host.Outcome State Fault Refusal :=
  afterReset s
    (match s.core.consume b with
     | some c => .next (s.setCore c).publish
     | none   => .refused .countOutOfRange)

/-- RESET, in any state, before the first RESET too (40_scan_operations.md R110). -/
def execReset (s : State) : Host.Outcome State Fault Refusal :=
  .next s.applyReset

end Sys2Proof.Machine
end

