-- ==== Sys2Proof/Machine/Dispatch.lean ====
section
/-! DEFINITION. One arm per token of 30_encoding.md R72. -/

namespace Sys2Proof.Machine

def exec (i : Instr) (s : State) : Host.Outcome State Fault Refusal :=
  match i with
  | .idle => Sys2Proof.Machine.execIdle s
  | .byte b => Sys2Proof.Machine.execByte b s
  | .endChunk => Sys2Proof.Machine.execEnd s
  | .byteEnd b => Sys2Proof.Machine.execByteEnd b s
  | .reset => Sys2Proof.Machine.execReset s

end Sys2Proof.Machine
end

