-- ==== Sys2Proof/Machine/Step.lean ====
section
/-! DEFINITION. One rising clock edge (30_encoding.md R85). -/

namespace Sys2Proof.Machine

/-- One rising edge: sample the port-cycle word, decode it, and do what its token's rule says (30_encoding.md R85). -/
def step (s : State) : Host.Outcome State Fault Refusal :=
  exec (decodeWord s.sampledWord) s.afterSample

/-- `s` with the opcode-table word `w` on the input ports at the next edge. A number that is no port-cycle word cannot
be driven on the eleven pins, and leaves `s` as it is. -/
def State.withFetchWord (s : State) (nbits w : Nat) : State :=
  match portWordOfNat (w % 2 ^ nbits) with
  | .ok pw   => s.pushWord pw
  | .error _ => s

end Sys2Proof.Machine
end

