-- ==== Sys2Proof/Machine/Assembly.lean ====
section
/-! DEFINITION. The token syntax of 30_encoding.md R83: one token a line, an optional comment after ';'. A line is a
list of characters. No step uses this file. -/

namespace Sys2Proof.Machine

/-- One hexadecimal digit (00_scope.md R10). -/
def hexDigit (n : Nat) : Char :=
  if n < 10 then Char.ofNat (48 + n) else Char.ofNat (55 + n)

/-- The value of a hexadecimal digit; both cases of a letter are read (log entry 6). -/
def hexValue (ch : Char) : Option Nat :=
  let n := ch.toNat
  if 48 ≤ n ∧ n ≤ 57 then some (n - 48)
  else if 65 ≤ n ∧ n ≤ 70 then some (n - 55)
  else if 97 ≤ n ∧ n ≤ 102 then some (n - 87)
  else none

/-- `0xNN` of a byte (30_encoding.md R83). -/
def hexByte (b : Byte) : List Char :=
  ['0', 'x', hexDigit (b.toNat / 16), hexDigit (b.toNat % 16)]

/-- The word of a token that has no operand, and the word and blank before the operand of one that has
(30_encoding.md R83). -/
def keyword (i : Instr) : List Char :=
  match i with
  | .idle      => ['I', 'D', 'L', 'E']
  | .byte _    => ['B', 'Y', 'T', 'E', ' ']
  | .endChunk  => ['E', 'N', 'D']
  | .byteEnd _ => ['B', 'Y', 'T', 'E', '_', 'E', 'N', 'D', ' ']
  | .reset     => ['R', 'E', 'S', 'E', 'T']

/-- The line of a token (30_encoding.md R83). -/
def tokenLine (i : Instr) : List Char :=
  match i with
  | .idle      => keyword .idle
  | .byte b    => keyword (.byte b) ++ hexByte b
  | .endChunk  => keyword .endChunk
  | .byteEnd b => keyword (.byteEnd b) ++ hexByte b
  | .reset     => keyword .reset

/-- A line without its trailing comment and the blanks before it (30_encoding.md R83, log entry 6). -/
def stripComment (l : List Char) : List Char :=
  ((l.takeWhile (· != ';')).reverse.dropWhile (· == ' ')).reverse

/-- A byte operand `0xNN`, two digits. -/
def parseByte (l : List Char) : Option Byte :=
  match l with
  | [z, x, h, d] =>
    match hexValue h, hexValue d with
    | some a, some b => if z = '0' ∧ x = 'x' then some (BitVec.ofNat 8 (16 * a + b)) else none
    | _, _ => none
  | _ => none

/-- The token a line names, comment and all; `none` for any other text (30_encoding.md R83). -/
def parseLine (l : List Char) : Option Instr :=
  let s := stripComment l
  if s = keyword .idle then some .idle
  else if s = keyword .endChunk then some .endChunk
  else if s = keyword .reset then some .reset
  else if s.take 5 = keyword (.byte 0) then (parseByte (s.drop 5)).map Instr.byte
  else if s.take 9 = keyword (.byteEnd 0) then (parseByte (s.drop 9)).map Instr.byteEnd
  else none

end Sys2Proof.Machine
end

