-- ==== Sys2Proof/Machine/SampleView.lean ====
section
/-! DEFINITION. The informative float view of the payload word (41_chunk_semantics.md R151), outside the block: the
scanner does no floating-point arithmetic (00_scope.md R4, R7). No step uses this file. -/

namespace Sys2Proof.Machine

/-- The fields of an IEEE-754 binary32 value (PRESUMED, log entry 5: the spec marks the layout as general
knowledge, R151). -/
structure Binary32 where
  sign     : BitVec 1
  exponent : BitVec 8
  fraction : BitVec 23
  deriving DecidableEq, Repr

/-- Bit 31 the sign, bits 30:23 the exponent, bits 22:0 the fraction (41_chunk_semantics.md R151). -/
def Binary32.ofWord (w : Word) : Binary32 where
  sign     := w.extractLsb' 31 1
  exponent := w.extractLsb' 23 8
  fraction := w.extractLsb' 0 23

/-- The word with these fields; the conversion is a reinterpretation, so it is exact (41_chunk_semantics.md R151). -/
def Binary32.toWord (f : Binary32) : Word := f.sign ++ f.exponent ++ f.fraction

/-- NaN: it passes through unchanged (41_chunk_semantics.md R151). -/
def Binary32.isNaN (f : Binary32) : Bool := f.exponent == 0xFF#8 && f.fraction != 0#23

/-- An infinity: it passes through unchanged (41_chunk_semantics.md R151). -/
def Binary32.isInf (f : Binary32) : Bool := f.exponent == 0xFF#8 && f.fraction == 0#23

/-- The exact value (m, e), standing for m * 2^e, of a finite number; `none` for NaN and the infinities. A zero loses
its sign here and keeps it in the field. -/
def Binary32.value (f : Binary32) : Option (Int × Int) :=
  if f.exponent = 0xFF#8 then none
  else
    let m : Nat := if f.exponent = 0#8 then f.fraction.toNat else 2 ^ 23 + f.fraction.toNat
    let e : Int := if f.exponent = 0#8 then -149 else (f.exponent.toNat : Int) - 150
    some (if f.sign = 1#1 then -(m : Int) else (m : Int), e)

end Sys2Proof.Machine
end

