-- ==== Sys2Proof/Machine/Chunk.lean ====
section
/-! DEFINITION. Chunk level: the reference function `scan` (41_chunk_semantics.md R140), the frame's wire format
(30_encoding.md R75, R77), the pseudo-tokens (R84), and running a token sequence. No step uses this file; the statements
of 41_chunk_semantics.md are made with it. -/

namespace Sys2Proof.Machine

/-- Index i of the chunk is a sync candidate: `chunk[i] == SYNC` and `chunk[i+1] != SYNC`, both within the chunk
(00_scope.md R13, 41_chunk_semantics.md R141). -/
def isCandidate (chunk : List Byte) (i : Nat) : Bool :=
  match chunk[i]?, chunk[i + 1]? with
  | some a, some b => a == Config.sync && b != Config.sync
  | _, _ => false

/-- Step 1 of `scan`: the least sync candidate (41_chunk_semantics.md R140). -/
def firstCandidate : List Byte → Option Nat
  | a :: b :: rest =>
    if a = Config.sync ∧ b ≠ Config.sync then some 0 else (firstCandidate (b :: rest)).map (· + 1)
  | _ => none

/-- Step 3 of `scan`: read `n` more payload bytes at cursor `c`, skipping one byte after each 0xAA; `none` once the
cursor is past the chunk's last index (41_chunk_semantics.md R140, R143). -/
def collect (chunk : List Byte) (n : Nat) (c : Nat) (q : List Byte) : Option (List Byte) :=
  match n with
  | 0 => some q
  | m + 1 =>
    match chunk[c]? with
    | none   => none
    | some b => collect chunk m (if b = Config.sync then c + 2 else c + 1) (q ++ [b])

/-- Step 4 of `scan`: Decoded if all four bytes were collected, else Incomplete(SHORT_FRAME)
(41_chunk_semantics.md R140, R144). -/
def resultOfCollected (q : Option (List Byte)) : Result :=
  match q with
  | some [q0, q1, q2, q3] => .decoded q0 q1 q2 q3
  | _                     => .incomplete .shortFrame

/-- The chunk-level reference (41_chunk_semantics.md R140), for a chunk of any length. -/
def scan (chunk : List Byte) : Result :=
  match firstCandidate chunk with
  | none   => .incomplete .noSync
  | some i => resultOfCollected (collect chunk Config.payloadLen (i + 2) [])

/-- S(q): the sender's stuffing of one payload byte (30_encoding.md R77, R84). -/
def stuff (q : Byte) : List Byte :=
  if q = Config.sync then [Config.sync, Config.sync] else [q]

/-- The bytes of a frame without the stuffing byte of a fourth payload 0xAA, which the scanner does not need
(41_chunk_semantics.md R150). -/
def frameCore (t q0 q1 q2 q3 : Byte) : List Byte :=
  [Config.sync, t] ++ stuff q0 ++ stuff q1 ++ stuff q2 ++ [q3]

/-- `FRAME t, [q0, q1, q2, q3]`: the bytes the sender puts on the wire (30_encoding.md R84). -/
def frame (t q0 q1 q2 q3 : Byte) : List Byte :=
  [Config.sync, t] ++ stuff q0 ++ stuff q1 ++ stuff q2 ++ stuff q3

/-- `CHUNK [...]`: one BYTE per byte, then END; the empty chunk is a lone END (30_encoding.md R84). -/
def chunkTokens (chunk : List Byte) : List Instr := chunk.map Instr.byte ++ [.endChunk]

/-- `CHUNKJ [...]`: the last byte and the end in one edge (30_encoding.md R84). It is written for n >= 1 only; the empty
list has no expansion. -/
def chunkJTokens : List Byte → List Instr
  | []          => []
  | [b]         => [.byteEnd b]
  | b :: c :: r => .byte b :: chunkJTokens (c :: r)

/-- Run a token sequence, and list the results published, in order (40_scan_operations.md R100, 20_memory.md R58). -/
def runTokens : List Instr → State → Host.Outcome (State × List Result) Fault Refusal
  | [], s => .next (s, [])
  | t :: ts, s =>
    match exec t s with
    | .next s1 =>
      match runTokens ts s1 with
      | .next (s2, rs) => .next (s2, s1.published.toList ++ rs)
      | .fault r       => .fault r
      | .refused r     => .refused r
    | .fault r   => .fault r
    | .refused r => .refused r

/-- The payload word of a Decoded result; an Incomplete one carries none (60_exceptions.md R186). -/
def Result.word (r : Result) : Option Word :=
  match r with
  | .decoded p0 p1 p2 p3 => some (payloadWord p0 p1 p2 p3)
  | .incomplete _        => none

end Sys2Proof.Machine
end

