-- ==== Sys2Proof/Safety.lean ====
section
/-! DEFINITION. The reachable states (10_state.md R22, R24, R25), the host's view and the host's duties
(60_exceptions.md R183 to R186) in the terms statements use. -/

namespace Sys2Proof.Machine

/-- The legal combinations of phase and k (10_state.md R22). -/
abbrev CoreState.CountLegal (c : CoreState) : Prop :=
  (c.phase = .seekSync → c.k = 0#3) ∧
  (c.phase = .consumeType → c.k = 0#3) ∧
  (c.phase = .collectPayload → c.k.toNat ≤ 3) ∧
  (c.phase = .stuffSkip → 1 ≤ c.k.toNat ∧ c.k.toNat ≤ 3) ∧
  (c.phase = .emit → c.k = 4#3)

/-- "pj is 0x00 for every j ≥ k" (10_state.md R24). -/
abbrev CoreState.ZeroFromCount (c : CoreState) : Prop :=
  (c.k.toNat ≤ 0 → c.p0 = 0#8) ∧ (c.k.toNat ≤ 1 → c.p1 = 0#8) ∧
  (c.k.toNat ≤ 2 → c.p2 = 0#8) ∧ (c.k.toNat ≤ 3 → c.p3 = 0#8)

/-- The four conditions of 10_state.md R24 on a reachable core state. -/
abbrev CoreState.Legal (c : CoreState) : Prop :=
  c.CountLegal ∧
  (c.phase = .seekSync ∨ c.phase = .consumeType → c.p0 = 0#8 ∧ c.p1 = 0#8 ∧ c.p2 = 0#8 ∧ c.p3 = 0#8) ∧
  (c.phase = .collectPayload ∨ c.phase = .stuffSkip → c.ZeroFromCount) ∧
  (c.phase = .stuffSkip →
    (c.k = 1#3 → c.p0 = Config.sync) ∧ (c.k = 2#3 → c.p1 = Config.sync) ∧ (c.k = 3#3 → c.p2 = Config.sync))

/-- `res_decoded == (res_reason == DECODED)` (10_state.md R25), and a result just published has a reason other than
NONE: "No step ever publishes this code" (30_encoding.md R81). -/
abbrev ResultRegs.Consistent (r : ResultRegs) : Prop :=
  (r.decoded = true ↔ r.reason = .decoded) ∧ (r.valid = true → r.reason ≠ .none)

/-- What holds of the scanner in every state reachable from RESET. -/
abbrev State.Inv (s : State) : Prop :=
  s.resetApplied = true ∧ s.core.Legal ∧ s.res.Consistent

/-- The scanner stands at a chunk boundary: RESET applied, and the core as END or RESET left it (70_reset_and_hazards.md
R202). The result registers may hold anything. -/
abbrev State.AtBoundary (s : State) : Prop :=
  s.resetApplied = true ∧ s.core = CoreState.cleared

/-- What the host may use of a result (60_exceptions.md R186): the payload only when `res_decoded` is 1. -/
def State.hostPayload (s : State) : Option Word :=
  if s.res.decoded then some s.res.payload else none

/-- A transport read within the host's limit (00_scope.md R8 `CHUNK_MAX`, 60_exceptions.md R184). -/
abbrev HostRead (chunk : List Byte) : Prop := chunk.length ≤ Config.chunkMax

/-- The tokens deliver this chunk and no other: CHUNK, or CHUNKJ where the chunk has a byte, with IDLE anywhere
(60_exceptions.md R184, R190). -/
abbrev Delivers (ts : List Instr) (chunk : List Byte) : Prop :=
  ts.filter (· != .idle) = chunkTokens chunk ∨
  (chunk ≠ [] ∧ ts.filter (· != .idle) = chunkJTokens chunk)

/-- A host program that meets the duty "reset first" (60_exceptions.md R183): its first token is RESET. -/
abbrev ResetFirst (ts : List Instr) : Prop := ts.head? = some .reset

/-- A run is safe when every token of it completes. -/
def SafeRun (ts : List Instr) (s : State) : Prop :=
  ∃ t rs, runTokens ts s = .next (t, rs)

end Sys2Proof.Machine
end

