-- ==== Sys2Proof/Certificates/Slice0/Obligations.lean ====
section
/-! DEFINITION. The statements for the provers. Each docstring cites what it formalises; where the spec marks a
sentence `[derived: ...]`, or the model chose, the docstring says so and the statement's basis is derived. -/

open Sys2Proof Sys2Proof.Machine

/-! ### Encoding -/

/-- 30_encoding.md R72: the token table by mask and match, and the canonical encodings. -/
def Obligations.TokenDecodeTable : Prop :=
  (∀ w : PortWord,
    (w &&& 0x700#11 = 0x000#11 → decodeWord w = .idle) ∧
    (w &&& 0x700#11 = 0x100#11 → decodeWord w = .byte (w.truncate 8)) ∧
    (w &&& 0x700#11 = 0x200#11 → decodeWord w = .endChunk) ∧
    (w &&& 0x700#11 = 0x300#11 → decodeWord w = .byteEnd (w.truncate 8)) ∧
    (w &&& 0x400#11 = 0x400#11 → decodeWord w = .reset)) ∧
  encode .idle = 0x000#11 ∧ (∀ b : Byte, encode (.byte b) = 0x100#11 ||| b.zeroExtend 11) ∧
  encode .endChunk = 0x200#11 ∧ (∀ b : Byte, encode (.byteEnd b) = 0x300#11 ||| b.zeroExtend 11) ∧
  encode .reset = 0x400#11

/-- 30_encoding.md R73: `in_data` is ignored when V is 0 or R is 1, and E and V too when R is 1. -/
def Obligations.IgnoredFieldsHaveNoEffect : Prop :=
  (∀ (r e v : Bool) (d d' : Byte), (v = false ∨ r = true) →
    decodeWord (InPorts.mk r e v d).word = decodeWord (InPorts.mk r e v d').word) ∧
  (∀ (e v e' v' : Bool) (d d' : Byte),
    decodeWord (InPorts.mk true e v d).word = decodeWord (InPorts.mk true e' v' d').word)

/-- 30_encoding.md section 2: every one of the 2048 words matches exactly one row, the row of the token it decodes to.
The spec marks the sentence as derived (from R72). -/
def Obligations.EveryWordMatchesOneRow : Prop :=
  ∀ w : PortWord, (tokenRows.filter (fun r => r.matchesWord w)).map (·.mnemonic) = [(decodeWord w).mnemonic]

/-- 95_test_vectors.md section 2.1: words written out by hand. -/
def Obligations.WrittenOutWordsDecode : Prop :=
  decodeWord 0b00011111111#11 = .idle ∧ decodeWord 0b00110101010#11 = .byte 0xAA#8 ∧
  decodeWord 0b01010101010#11 = .endChunk ∧ decodeWord 0b01110101010#11 = .byteEnd 0xAA#8 ∧
  decodeWord 0b10110101010#11 = .reset ∧ decodeWord 0b11111111111#11 = .reset

/-- Decoding the encoding of a token gives it back, with every byte operand: no bit of an encoding is dropped. -/
def Obligations.DecodeEncodeRoundTrip : Prop :=
  ∀ i : Instr, i.wellFormed = true → decodeWord (encode i) = i ∧ decodeTableWord 16 (encode i).toNat = some i

/-- The other direction: the canonical word of the token a word decodes to is that word with its ignored bits 0, so
exactly the canonical words are their own token's encoding. -/
def Obligations.EncodeDecodeCanonical : Prop :=
  ∀ w : PortWord,
    encode (decodeWord w) =
      (if w.getLsbD 10 then 0x400#11 else if w.getLsbD 8 then w else w &&& 0x700#11) ∧
    (PortWord.canonical w = true ↔ encode (decodeWord w) = w)

/-- 30_encoding.md section 6: the line of a token names that token, with or without a trailing comment. Which blanks and
which letter case are read is the model's choice (log entry 6). -/
def Obligations.TokenLineParsesBack : Prop :=
  ∀ (i : Instr) (comment : List Char),
    parseLine (tokenLine i) = some i ∧ parseLine (tokenLine i ++ [' ', ';'] ++ comment) = some i

/-- 30_encoding.md R80: the phase codes. -/
def Obligations.PhaseCodes : Prop :=
  Phase.code .seekSync = 0b000#3 ∧ Phase.code .consumeType = 0b001#3 ∧ Phase.code .collectPayload = 0b010#3 ∧
  Phase.code .stuffSkip = 0b011#3 ∧ Phase.code .emit = 0b100#3 ∧
  ∀ p : Phase, (Phase.code p).toNat ≤ 4

/-- 30_encoding.md R81: the reason codes, all four; RESET leaves NONE on the ports and no publishing step does; and
after a chunk the ports show the row of the table that the chunk's meaning selects. -/
def Obligations.ReasonCodeTable : Prop :=
  (Reason.code .none = 0b00#2 ∧ Reason.code .decoded = 0b01#2 ∧
    Reason.code .noSync = 0b10#2 ∧ Reason.code .shortFrame = 0b11#2) ∧
  (∀ s : State, ∃ t, exec .reset s = .next t ∧ t.outPorts.resReason = 0b00#2 ∧ t.outPorts.resDecoded = 0#1) ∧
  (∀ (i : Instr) (s t : State), exec i s = .next t → t.outPorts.resValid = 1#1 → t.outPorts.resReason ≠ 0b00#2) ∧
  (∀ (chunk : List Byte) (s : State), s.AtBoundary →
    ∃ t rs, runTokens (chunkTokens chunk) s = .next (t, rs) ∧ t.outPorts.resValid = 1#1 ∧
      (∀ q0 q1 q2 q3, scan chunk = .decoded q0 q1 q2 q3 →
        t.outPorts.resReason = 0b01#2 ∧ t.outPorts.resDecoded = 1#1 ∧
        t.outPorts.resPayload = q3 ++ q2 ++ q1 ++ q0) ∧
      ((∀ i, isCandidate chunk i = false) →
        t.outPorts.resReason = 0b10#2 ∧ t.outPorts.resDecoded = 0#1) ∧
      ((∃ i, isCandidate chunk i = true) → (∀ q0 q1 q2 q3, scan chunk ≠ .decoded q0 q1 q2 q3) →
        t.outPorts.resReason = 0b11#2 ∧ t.outPorts.resDecoded = 0#1))

/-! ### The clock edge -/

/-- 30_encoding.md section 7: each rising edge decodes the sampled word and does what its token's rule says; the outputs
are driven from the result registers, each port showing its own register (section 1). That the word sampled is the head
of `input`, which then drops it, is the model's form of the pins (log entry 2). -/
def Obligations.StepRunsTheSampledToken : Prop :=
  (∀ (s : State) (w : PortWord) (ws : List PortWord), s.input = w :: ws →
    step s = exec (decodeWord w) { s with input := ws }) ∧
  (∀ s : State,
    s.outPorts.resValid = (if s.res.valid = true then 1#1 else 0#1) ∧
    s.outPorts.resDecoded = (if s.res.decoded = true then 1#1 else 0#1) ∧
    s.outPorts.resReason = s.res.reason.code ∧
    s.outPorts.resPayload = s.res.payload)

/-- Where the input lists no word, the edge samples a free word: the model's choice (log entry 2). -/
def Obligations.UndrivenEdgeSamplesAFreeWord : Prop :=
  ∀ s : State, s.input = [] →
    step s = exec (decodeWord (Config.hostWord s.hostDraws)) { s with hostDraws := s.hostDraws + 1 }

/-- An opcode-table word put on the pins is what the next step runs. -/
def Obligations.FetchedTableWordRuns : Prop :=
  ∀ (s : State) (nbits w : Nat) (i : Instr), decodeTableWord nbits w = some i →
    step (s.withFetchWord nbits w) = exec i s

/-- Clock edges over the encoded words of a token sequence run the sequence. -/
def Obligations.StepsRunTheTokenSequence : Prop :=
  ∀ (ts : List Instr) (s t : State) (rest : List PortWord) (rs : List Result),
    runTokens ts { s with input := rest } = .next (t, rs) →
    Sys2Proof.core.run ts.length { s with input := ts.map encode ++ rest } = .next t

/-! ### One rule per token -/

/-- 40_scan_operations.md R101. -/
def Obligations.IdleClearsValidOnly : Prop :=
  ∀ s : State, s.resetApplied = true →
    exec .idle s = .next { s with res := { s.res with valid := false } }

/-- 40_scan_operations.md R103. -/
def Obligations.ByteInSeekSync : Prop :=
  ∀ (s : State) (b : Byte), s.resetApplied = true → s.core.phase = .seekSync →
    exec (.byte b) s = .next { s with
      core := { s.core with phase := if b = 0xAA#8 then .consumeType else .seekSync }
      res := { s.res with valid := false } }

/-- 40_scan_operations.md R104. -/
def Obligations.ByteInConsumeType : Prop :=
  ∀ (s : State) (b : Byte), s.resetApplied = true → s.core.phase = .consumeType →
    exec (.byte b) s = .next { s with
      core := if b = 0xAA#8 then s.core else { s.core with phase := .collectPayload, k := 0#3 }
      res := { s.res with valid := false } }

/-- 40_scan_operations.md R105, with every register but p(k), k and phase kept. -/
def Obligations.ByteInCollectPayload : Prop :=
  ∀ (s : State) (b : Byte), s.resetApplied = true → s.core.phase = .collectPayload → s.core.k.toNat ≤ 3 →
    exec (.byte b) s = .next { s with
      core := {
        phase := if s.core.k.toNat + 1 = 4 then .emit else if b = 0xAA#8 then .stuffSkip else .collectPayload
        k := BitVec.ofNat 3 (s.core.k.toNat + 1)
        p0 := if s.core.k.toNat = 0 then b else s.core.p0
        p1 := if s.core.k.toNat = 1 then b else s.core.p1
        p2 := if s.core.k.toNat = 2 then b else s.core.p2
        p3 := if s.core.k.toNat = 3 then b else s.core.p3 }
      res := { s.res with valid := false } }

/-- 40_scan_operations.md R106: the byte is discarded, whatever its value. -/
def Obligations.ByteInStuffSkip : Prop :=
  ∀ (s : State) (b : Byte), s.resetApplied = true → s.core.phase = .stuffSkip →
    exec (.byte b) s = .next { s with
      core := { s.core with phase := .collectPayload }
      res := { s.res with valid := false } }

/-- 40_scan_operations.md R107: the byte is discarded. -/
def Obligations.ByteInEmit : Prop :=
  ∀ (s : State) (b : Byte), s.resetApplied = true → s.core.phase = .emit →
    exec (.byte b) s = .next { s with res := { s.res with valid := false } }

/-- 40_scan_operations.md R108: the three results, the registers they leave, and the core's fresh start. The draw is any
value (10_state.md R29). -/
def Obligations.EndPublishesTheChunksResult : Prop :=
  ∀ s : State, s.resetApplied = true →
    ∃ (t : State) (draw : Word) (n : Nat), exec .endChunk s = .next t ∧
      if s.core.phase = .emit then
        t = { s with
          core := ⟨.seekSync, 0#3, 0x00#8, 0x00#8, 0x00#8, 0x00#8⟩
          res := ⟨true, true, .decoded, s.core.p3 ++ s.core.p2 ++ s.core.p1 ++ s.core.p0⟩ } ∧
        t.published = some (.decoded s.core.p0 s.core.p1 s.core.p2 s.core.p3)
      else if s.core.phase = .seekSync ∨ s.core.phase = .consumeType then
        t = { s with
          core := ⟨.seekSync, 0#3, 0x00#8, 0x00#8, 0x00#8, 0x00#8⟩
          res := ⟨true, false, .noSync, draw⟩
          payloadDraws := n } ∧
        t.published = some (.incomplete .noSync)
      else
        t = { s with
          core := ⟨.seekSync, 0#3, 0x00#8, 0x00#8, 0x00#8, 0x00#8⟩
          res := ⟨true, false, .shortFrame, draw⟩
          payloadDraws := n } ∧
        t.published = some (.incomplete .shortFrame)

/-- 40_scan_operations.md R109: BYTE_END b is BYTE b, then END on the state the byte left. -/
def Obligations.ByteEndIsByteThenEnd : Prop :=
  ∀ (s u : State) (b : Byte), exec (.byte b) s = .next u → exec (.byteEnd b) s = exec .endChunk u

/-- What BYTE_END publishes, said outright from the state before it and its byte (40_scan_operations.md R105, R108,
R109): a frame is complete with this byte, or was before it, or the chunk is Incomplete. -/
def Obligations.ByteEndResult : Prop :=
  ∀ (s : State) (b : Byte), s.resetApplied = true → (s.core.phase = .collectPayload → s.core.k.toNat ≤ 3) →
    ∃ t : State, exec (.byteEnd b) s = .next t ∧
      t.core = ⟨.seekSync, 0#3, 0x00#8, 0x00#8, 0x00#8, 0x00#8⟩ ∧
      t.input = s.input ∧ t.hostDraws = s.hostDraws ∧ t.resetApplied = s.resetApplied ∧
      if s.core.phase = .emit then
        t.res = ⟨true, true, .decoded, s.core.p3 ++ s.core.p2 ++ s.core.p1 ++ s.core.p0⟩
      else if s.core.phase = .collectPayload ∧ s.core.k.toNat = 3 then
        t.res = ⟨true, true, .decoded, b ++ s.core.p2 ++ s.core.p1 ++ s.core.p0⟩
      else if s.core.phase = .seekSync ∨ (s.core.phase = .consumeType ∧ b = 0xAA#8) then
        t.res.valid = true ∧ t.res.decoded = false ∧ t.res.reason = .noSync
      else
        t.res.valid = true ∧ t.res.decoded = false ∧ t.res.reason = .shortFrame

/-- 40_scan_operations.md R110, from any state, before the first RESET too; the host's words and the model's counters
are no registers and stay. -/
def Obligations.ResetWritesEveryRegister : Prop :=
  ∀ s : State, exec .reset s = .next { s with
    core := ⟨.seekSync, 0#3, 0x00#8, 0x00#8, 0x00#8, 0x00#8⟩
    res := ⟨false, false, .none, 0x00000000#32⟩
    resetApplied := true }

/-- 10_state.md R31: the registers of the reset state are what RESET leaves from any state. -/
def Obligations.ResetStateValues : Prop :=
  State.reset.core = ⟨.seekSync, 0#3, 0x00#8, 0x00#8, 0x00#8, 0x00#8⟩ ∧
  State.reset.res = ⟨false, false, .none, 0x00000000#32⟩ ∧
  Phase.code State.reset.core.phase = 0b000#3 ∧ State.reset.outPorts.resReason = 0b00#2 ∧
  ∀ s : State, ∃ t, exec .reset s = .next t ∧ t.core = State.reset.core ∧ t.res = State.reset.res

/-- 70_reset_and_hazards.md R200: with `rst` high the other pins do not matter, and holding `rst` high for more edges
has the effect of one. -/
def Obligations.ResetHeldHasTheEffectOfOneEdge : Prop :=
  ∀ (p : InPorts) (s : State) (n : Nat), p.rst = true →
    ∃ t, exec (decodeWord p.word) s = .next t ∧
      t.core = ⟨.seekSync, 0#3, 0x00#8, 0x00#8, 0x00#8, 0x00#8⟩ ∧ t.res = ⟨false, false, .none, 0x00000000#32⟩ ∧
      runTokens (List.replicate (n + 1) (decodeWord p.word)) s = .next (t, [])

/-- 70_reset_and_hazards.md R203: a token other than RESET offered before the first RESET is refused, whatever the
registers hold, and RESET is not. -/
def Obligations.TokenBeforeResetIsRefused : Prop :=
  ∀ s : State, s.resetApplied = false →
    (∀ i : Instr, i ≠ .reset → exec i s = .refused .beforeReset) ∧
    ∃ t, exec .reset s = .next t ∧ t.resetApplied = true

/-- A payload byte when k names no payload register stops by name. For k = 5..7 that is 93_implementation_defined.md S3's
"refuse"; for k = 4 in COLLECT_PAYLOAD, which S3 does not name and for which 40_scan_operations.md section 3 has no case, it
is the model's choice (log entry 4). -/
def Obligations.PayloadCountOutOfRangeIsRefused : Prop :=
  ∀ (s : State) (b : Byte), s.resetApplied = true → s.core.phase = .collectPayload → 3 < s.core.k.toNat →
    exec (.byte b) s = .refused .countOutOfRange ∧ exec (.byteEnd b) s = .refused .countOutOfRange

/-- 60_exceptions.md R170: in every state that meets the invariant of the reachable states, every token completes. -/
def Obligations.EveryTokenCompletes : Prop :=
  ∀ (i : Instr) (s : State), s.Inv → ∃ t, exec i s = .next t

/-- 60_exceptions.md R183: a host program that begins with RESET runs without a stop, whatever the block held before
it. -/
def Obligations.ResetFirstProgramNeverStops : Prop :=
  ∀ (ts : List Instr) (s : State), ResetFirst ts → SafeRun ts s

/-! ### Frames -/

/-- IDLE and BYTE: `res_valid` falls, the held result fields stay (10_state.md R25), each payload register but p(k) in
COLLECT_PAYLOAD stays, k changes in no phase but COLLECT_PAYLOAD and CONSUME_TYPE, and IDLE changes no core register. -/
def Obligations.IdleAndByteFrame : Prop :=
  ∀ (i : Instr) (s t : State), (i = .idle ∨ ∃ b, i = .byte b) → exec i s = .next t →
    t.res = { s.res with valid := false } ∧
    t.resetApplied = s.resetApplied ∧ t.input = s.input ∧
    t.payloadDraws = s.payloadDraws ∧ t.hostDraws = s.hostDraws ∧
    (i = .idle → t.core = s.core) ∧
    (¬(s.core.phase = .collectPayload ∧ s.core.k = 0#3) → t.core.p0 = s.core.p0) ∧
    (¬(s.core.phase = .collectPayload ∧ s.core.k = 1#3) → t.core.p1 = s.core.p1) ∧
    (¬(s.core.phase = .collectPayload ∧ s.core.k = 2#3) → t.core.p2 = s.core.p2) ∧
    (¬(s.core.phase = .collectPayload ∧ s.core.k = 3#3) → t.core.p3 = s.core.p3) ∧
    (s.core.phase ≠ .collectPayload → s.core.phase ≠ .consumeType → t.core.k = s.core.k)

/-- END and BYTE_END write every register (40_scan_operations.md R108), so their frame is the rest: the launch premise,
the host's words and the free-word counter stay; a draw is taken exactly when the result is Incomplete (R100; the
counter is the model's, log entry 1). -/
def Obligations.EndAndByteEndFrame : Prop :=
  ∀ (i : Instr) (s t : State), (i = .endChunk ∨ ∃ b, i = .byteEnd b) → exec i s = .next t →
    t.resetApplied = s.resetApplied ∧ t.input = s.input ∧ t.hostDraws = s.hostDraws ∧
    t.payloadDraws = (if t.res.decoded then s.payloadDraws else s.payloadDraws + 1) ∧
    (t.res.decoded = false → t.res.payload = Config.payloadDraw s.payloadDraws)

/-- 70_reset_and_hazards.md R202: every END and BYTE_END leaves the core at its reset value and publishes a result that
the result registers hold. -/
def Obligations.ChunkEndResetsTheCore : Prop :=
  ∀ (i : Instr) (s t : State), (i = .endChunk ∨ ∃ b, i = .byteEnd b) → exec i s = .next t →
    t.core = State.reset.core ∧ t.res.valid = true ∧ ∃ r, t.published = some r

/-- `res_valid` is 1 after exactly the steps that publish, which are END and BYTE_END (10_state.md R25, 20_memory.md
R58). -/
def Obligations.ValidMarksThePublishingStep : Prop :=
  ∀ (i : Instr) (s t : State), exec i s = .next t →
    (t.res.valid = true ↔ (i = .endChunk ∨ ∃ b, i = .byteEnd b)) ∧
    (t.published.isSome = true ↔ (i = .endChunk ∨ ∃ b, i = .byteEnd b))

/-! ### What flows where -/

/-- No token reads a result register (10_state.md R28), and a step that publishes, or resets, forgets the earlier result
(60_exceptions.md R172). -/
def Obligations.NoTokenReadsAResultRegister : Prop :=
  ∀ (i : Instr) (s t : State) (r : ResultRegs), exec i s = .next t →
    ∃ t', exec i { s with res := r } = .next t' ∧ t'.core = t.core ∧
      (i = .endChunk ∨ i = .reset ∨ (∃ b, i = .byteEnd b) → t' = t)

/-- A draw reaches `res_payload` of an Incomplete result and nothing else: whatever draws are left, the same step
gives the same core, the same flags, the same published result and the same payload for a host that reads it only when
decoded (10_state.md R29, 60_exceptions.md R186). -/
def Obligations.DrawReachesOnlyTheUnreadPayload : Prop :=
  ∀ (i : Instr) (s t : State) (n : Nat), exec i s = .next t →
    ∃ t', exec i { s with payloadDraws := n } = .next t' ∧ t'.core = t.core ∧
      t'.res.valid = t.res.valid ∧ t'.res.decoded = t.res.decoded ∧ t'.res.reason = t.res.reason ∧
      t'.published = t.published ∧ t'.hostPayload = t.hostPayload

/-- 20_memory.md R52: the payload word END publishes is little-endian, bit field by bit field. -/
def Obligations.PublishedPayloadIsLittleEndian : Prop :=
  ∀ s : State, s.resetApplied = true → s.core.phase = .emit →
    ∃ t, exec .endChunk s = .next t ∧
      t.res.payload.extractLsb' 0 8 = s.core.p0 ∧ t.res.payload.extractLsb' 8 8 = s.core.p1 ∧
      t.res.payload.extractLsb' 16 8 = s.core.p2 ∧ t.res.payload.extractLsb' 24 8 = s.core.p3

/-! ### Invariants -/

/-- The reset state meets the invariant of the reachable states. -/
def Obligations.InvAtReset : Prop := State.reset.Inv

/-- Every clock edge keeps the invariant of the reachable states: the legal phase and count, the zero payload registers
above the count, the 0xAA behind a pending skip (10_state.md section 1, which marks the list as derived), and a
`res_decoded` that agrees with `res_reason` (section 2). -/
def Obligations.StepKeepsInv : Prop :=
  ∀ s t : State, s.Inv → step s = .next t → t.Inv

/-- The states any token sequence reaches from reset meet 10_state.md section 1's four conditions (marked derived
there) and section 2's `res_decoded == (res_reason == DECODED)`; and every token sequence completes. -/
def Obligations.ReachableStatesAreLegal : Prop :=
  ∀ ts : List Instr, ∃ t rs, runTokens ts State.reset = .next (t, rs) ∧ t.core.Legal ∧
    (t.res.decoded = true ↔ t.res.reason = .decoded)

/-- 40_scan_operations.md section 7 (marked derived): the count goes up by one at most, never wraps and never passes
4. -/
def Obligations.CountNeverWraps : Prop :=
  ∀ (i : Instr) (s t : State), s.Inv → exec i s = .next t →
    t.core.k.toNat ≤ 4 ∧ t.core.k.toNat ≤ s.core.k.toNat + 1

/-! ### Whole chunks -/

/-- 41_chunk_semantics.md R141: the search finds the first sync candidate; a last byte and a byte followed by 0xAA are
none; what follows the candidate is not looked at. -/
def Obligations.FirstCandidateIsTheLeast : Prop :=
  (∀ (chunk : List Byte) (i : Nat), firstCandidate chunk = some i ↔
    (chunk[i]? = some 0xAA#8 ∧ (∃ b, chunk[i + 1]? = some b ∧ b ≠ 0xAA#8) ∧
      ∀ j < i, ¬(chunk[j]? = some 0xAA#8 ∧ ∃ b, chunk[j + 1]? = some b ∧ b ≠ 0xAA#8))) ∧
  (∀ (chunk rest : List Byte) (i : Nat), firstCandidate chunk = some i →
    firstCandidate (chunk.take (i + 2) ++ rest) = some i)

/-- 41_chunk_semantics.md section 2 (marked derived): tokens that deliver a chunk, as CHUNK or CHUNKJ, from any
chunk boundary publish exactly one result, the reference function's, and leave a chunk boundary. IDLE may stand
anywhere, and the earlier result is any. -/
def Obligations.DeliveredChunkPublishesItsScan : Prop :=
  ∀ (chunk : List Byte) (ts : List Instr) (s : State), s.AtBoundary → Delivers ts chunk →
    ∃ t, runTokens ts s = .next (t, [scan chunk]) ∧
      t.core = ⟨.seekSync, 0#3, 0x00#8, 0x00#8, 0x00#8, 0x00#8⟩ ∧ t.resetApplied = true

/-- The result comes at the END and not before: the BYTE tokens of a chunk publish nothing, and END then shows the
chunk's scan (41_chunk_semantics.md section 2, marked derived). -/
def Obligations.ResultComesAtTheEnd : Prop :=
  ∀ (chunk : List Byte) (s : State), s.AtBoundary →
    ∃ u t, runTokens (chunk.map Instr.byte) s = .next (u, []) ∧ exec .endChunk u = .next t ∧
      t.published = some (scan chunk) ∧
      (t.res.decoded = true ↔ ∃ q0 q1 q2 q3, scan chunk = .decoded q0 q1 q2 q3)

/-- 20_memory.md section 5: a session of chunks, each delivered in either form with IDLE anywhere, publishes one result
a chunk, in order, each that chunk's alone. -/
def Obligations.ResultsComeInChunkOrder : Prop :=
  ∀ (reads : List (List Instr × List Byte)) (s : State), s.AtBoundary →
    (∀ r ∈ reads, Delivers r.1 r.2) →
    ∃ t, runTokens (reads.flatMap (·.1)) s = .next (t, reads.map (fun r => scan r.2)) ∧ t.AtBoundary

/-- RESET in the middle of anything abandons the open chunk without a result, and what follows is scanned as a new
chunk (70_reset_and_hazards.md section 1, marked derived). -/
def Obligations.ResetAbandonsTheOpenChunk : Prop :=
  ∀ (chunk : List Byte) (ts : List Instr) (s : State), Delivers ts chunk →
    ∃ t, runTokens (.reset :: ts) s = .next (t, [scan chunk]) ∧ t.AtBoundary

/-- 41_chunk_semantics.md R145: a chunk with no sync candidate is Incomplete(NO_SYNC), at the ports too; the empty chunk
and a chunk of one byte have none. -/
def Obligations.ChunkWithoutSyncIsIncomplete : Prop :=
  (∀ (chunk : List Byte) (s : State), s.AtBoundary → (∀ i, isCandidate chunk i = false) →
    ∃ t, runTokens (chunkTokens chunk) s = .next (t, [.incomplete .noSync]) ∧
      t.outPorts.resDecoded = 0#1 ∧ t.outPorts.resReason = 0b10#2) ∧
  (∀ (chunk : List Byte) (i : Nat), chunk.length ≤ 1 → isCandidate chunk i = false)

/-- 70_reset_and_hazards.md R211: an open chunk stays open under any number of IDLE tokens, and tokens without an END
never give a result. -/
def Obligations.OpenChunkWaitsWithoutTimeout : Prop :=
  (∀ (n : Nat) (s : State), s.resetApplied = true →
    ∃ t, runTokens (List.replicate n .idle) s = .next (t, []) ∧ t.core = s.core) ∧
  (∀ (ts : List Instr) (s t : State) (rs : List Result),
    (∀ i ∈ ts, i ≠ .endChunk ∧ ∀ b, i ≠ .byteEnd b) → runTokens ts s = .next (t, rs) → rs = [])

/-! ### Properties of the reference function and of frames -/

/-- 41_chunk_semantics.md section 2 (marked derived): which chunks give which reason, by the cursors. -/
def Obligations.ReasonCodesAtChunkLevel : Prop :=
  ∀ chunk : List Byte,
    (firstCandidate chunk = none ↔ scan chunk = .incomplete .noSync) ∧
    ∀ i, firstCandidate chunk = some i →
      ∀ c0 c1 c2 c3 : Nat, c0 = i + 2 →
        c1 = c0 + (if chunk[c0]? = some 0xAA#8 then 2 else 1) →
        c2 = c1 + (if chunk[c1]? = some 0xAA#8 then 2 else 1) →
        c3 = c2 + (if chunk[c2]? = some 0xAA#8 then 2 else 1) →
        (c3 < chunk.length → ∃ q0 q1 q2 q3, chunk[c0]? = some q0 ∧ chunk[c1]? = some q1 ∧
          chunk[c2]? = some q2 ∧ chunk[c3]? = some q3 ∧ scan chunk = .decoded q0 q1 q2 q3) ∧
        (chunk.length ≤ c3 → scan chunk = .incomplete .shortFrame)

/-- 41_chunk_semantics.md section 3 (marked derived): only the first candidate is tried, and after a decoded frame the
rest of the chunk is ignored. -/
def Obligations.OneFramePerChunk : Prop :=
  (∀ (chunk : List Byte) (i : Nat), firstCandidate chunk = some i → scan chunk = scan (chunk.drop i)) ∧
  (∀ (chunk rest : List Byte) (q0 q1 q2 q3 : Byte), scan chunk = .decoded q0 q1 q2 q3 →
    scan (chunk ++ rest) = .decoded q0 q1 q2 q3)

/-- 41_chunk_semantics.md section 3 (marked derived): the frame property with its precondition, with and without the
stuffing byte of a fourth payload 0xAA. -/
def Obligations.FrameIsDecoded : Prop :=
  ∀ (P X : List Byte) (t q0 q1 q2 q3 : Byte), (∀ j, isCandidate P j = false) → frameTypeWellFormed t = true →
    scan (P ++ frame t q0 q1 q2 q3 ++ X) = .decoded q0 q1 q2 q3 ∧
    scan (P ++ frameCore t q0 q1 q2 q3 ++ X) = .decoded q0 q1 q2 q3

/-- 41_chunk_semantics.md section 4 (marked derived): a 32-bit pattern framed with stuffing comes back on the ports, and
through the float view's fields, bit for bit. -/
def Obligations.FramedWordComesBack : Prop :=
  ∀ (w : Word) (P X : List Byte) (t : Byte) (s : State), s.AtBoundary →
    (∀ j, isCandidate P j = false) → frameTypeWellFormed t = true →
    ∃ u rs, runTokens (chunkTokens
        (P ++ frame t (wordByte w 0) (wordByte w 1) (wordByte w 2) (wordByte w 3) ++ X)) s = .next (u, rs) ∧
      u.outPorts.resDecoded = 1#1 ∧ u.outPorts.resPayload = w ∧ u.hostPayload = some w ∧
      (Binary32.ofWord u.outPorts.resPayload).toWord = w

/-- A frame cut short by the end of its chunk is not decoded: NO_SYNC if the chunk ends at the sync byte or before it,
SHORT_FRAME after it (70_reset_and_hazards.md section 2). -/
def Obligations.SplitFrameIsLost : Prop :=
  ∀ (P : List Byte) (t q0 q1 q2 q3 : Byte) (n : Nat),
    (∀ j, isCandidate P j = false) → frameTypeWellFormed t = true → n < (frameCore t q0 q1 q2 q3).length →
    scan (P ++ (frameCore t q0 q1 q2 q3).take n) =
      if n ≤ 1 then .incomplete .noSync else .incomplete .shortFrame

/-- 30_encoding.md section 3 (marked derived): a frame is 6 bytes and one more for each payload 0xAA, so 6 to 10, and one
transport read of CHUNK_MAX bytes can hold it (00_scope.md R8). -/
def Obligations.FrameRawLength : Prop :=
  ∀ t q0 q1 q2 q3 : Byte,
    (frame t q0 q1 q2 q3).length = 6 + [q0, q1, q2, q3].count 0xAA#8 ∧
    Config.minFrameRaw ≤ (frame t q0 q1 q2 q3).length ∧ (frame t q0 q1 q2 q3).length ≤ Config.maxFrameRaw ∧
    HostRead (frame t q0 q1 q2 q3)

/-- CHUNK of n bytes takes n + 1 edges and CHUNKJ takes n (70_reset_and_hazards.md section 3). -/
def Obligations.ChunkEdgeCounts : Prop :=
  ∀ chunk : List Byte,
    (chunkTokens chunk).length = chunk.length + 1 ∧ (chunkJTokens chunk).length = chunk.length

/-- 41_chunk_semantics.md section 4: the float view is a reinterpretation, so no bit is lost, NaN and Inf included. The
field layout is from general knowledge (log entry 5). -/
def Obligations.FloatViewKeepsEveryBit : Prop :=
  ∀ w : Word, (Binary32.ofWord w).toWord = w
end

