-- ==== Sys2Proof/Laws/Chunk.lean ====
section
/-! SUPPORT. The small lemmas of the reference function `scan` and its parts (41_chunk_semantics.md R140). -/

namespace Sys2Proof.Machine

/-- A byte before the chunk moves every cursor by one. -/
theorem collect_cons_succ (x : Byte) (chunk : List Byte) (n c : Nat) (q : List Byte) :
    collect (x :: chunk) n (c + 1) q = collect chunk n c q := by
  induction n generalizing c q with
  | zero => rfl
  | succ n ih =>
    simp only [collect, List.getElem?_cons_succ]
    cases chunk[c]? with
    | none => rfl
    | some b => by_cases h : b = Config.sync <;> simp [h, ih]

/-- Collecting from a cursor is collecting from the start of what is left. -/
theorem collect_drop (chunk : List Byte) (n c : Nat) (q : List Byte) :
    collect chunk n c q = collect (chunk.drop c) n 0 q := by
  induction c generalizing chunk with
  | zero => rfl
  | succ c ih =>
    cases chunk with
    | nil => cases n <;> simp [collect]
    | cons x l => rw [collect_cons_succ, ih]; rfl

/-- The reads of a collection that succeeds lie within the chunk, so more bytes after it change nothing. -/
theorem collect_append {chunk : List Byte} {n c : Nat} {q l : List Byte} (rest : List Byte)
    (h : collect chunk n c q = some l) : collect (chunk ++ rest) n c q = some l := by
  induction n generalizing c q with
  | zero => exact h
  | succ n ih =>
    unfold collect at h ⊢
    cases hb : chunk[c]? with
    | none => simp [hb] at h
    | some b =>
      have hc : (chunk ++ rest)[c]? = some b := by
        rw [List.getElem?_append_left (List.getElem?_eq_some_iff.mp hb).1, hb]
      simp only [hb, hc] at h ⊢
      exact ih h

/-- A collection that succeeds gives the bytes it was given and `n` more. -/
theorem collect_length {chunk : List Byte} {n c : Nat} {q l : List Byte}
    (h : collect chunk n c q = some l) : l.length = q.length + n := by
  induction n generalizing c q with
  | zero => cases h; rfl
  | succ n ih =>
    unfold collect at h
    split at h
    · cases h
    · have := ih h
      simp at this
      omega

/-- A first byte that is not 0xAA is no candidate. -/
theorem firstCandidate_cons_of_ne {a : Byte} (chunk : List Byte) (h : a ≠ Config.sync) :
    firstCandidate (a :: chunk) = (firstCandidate chunk).map (· + 1) := by
  cases chunk <;> simp [firstCandidate, h]

/-- Nor is a 0xAA followed by another. -/
theorem firstCandidate_sync_sync (chunk : List Byte) :
    firstCandidate (Config.sync :: Config.sync :: chunk) =
      (firstCandidate (Config.sync :: chunk)).map (· + 1) := by
  simp [firstCandidate]

/-- A 0xAA followed by another byte is the first candidate. -/
theorem firstCandidate_sync_type {t : Byte} (chunk : List Byte) (h : t ≠ Config.sync) :
    firstCandidate (Config.sync :: t :: chunk) = some 0 := by
  simp [firstCandidate, h]

/-- Where the search passes over a first byte, so does the scan. -/
theorem scan_cons_of_map {x : Byte} {chunk : List Byte}
    (h : firstCandidate (x :: chunk) = (firstCandidate chunk).map (· + 1)) :
    scan (x :: chunk) = scan chunk := by
  unfold scan
  rw [h]
  cases firstCandidate chunk with
  | none => rfl
  | some i => simp only [Option.map_some, show i + 1 + 2 = (i + 2) + 1 by omega, collect_cons_succ]

/-- The scan of a chunk that begins with a sync and a type byte collects from the third byte on. -/
theorem scan_sync_type {t : Byte} (chunk : List Byte) (h : t ≠ Config.sync) :
    scan (Config.sync :: t :: chunk) = resultOfCollected (collect chunk 4 0 []) := by
  unfold scan
  rw [firstCandidate_sync_type chunk h]
  simp only [Config.payloadLen, collect_cons_succ]

/-- CHUNK and CHUNKJ hold no IDLE, so each delivers itself. -/
theorem chunkTokens_filter (chunk : List Byte) :
    (chunkTokens chunk).filter (· != .idle) = chunkTokens chunk := by
  refine List.filter_eq_self.mpr fun i hi => ?_
  simp only [chunkTokens, List.mem_append, List.mem_map, List.mem_singleton] at hi
  rcases hi with ⟨b, _, rfl⟩ | rfl <;> rfl

end Sys2Proof.Machine
end

