-- ==== Sys2Proof/Laws/State.lean ====
section
/-! SUPPORT. One lemma per field per update of the state, so that no later proof unfolds a record update. -/

namespace Sys2Proof.Machine

@[simp] theorem CoreState.cleared_phase : CoreState.cleared.phase = .seekSync := rfl
@[simp] theorem CoreState.cleared_k : CoreState.cleared.k = 0#3 := rfl
@[simp] theorem CoreState.cleared_p0 : CoreState.cleared.p0 = 0#8 := rfl
@[simp] theorem CoreState.cleared_p1 : CoreState.cleared.p1 = 0#8 := rfl
@[simp] theorem CoreState.cleared_p2 : CoreState.cleared.p2 = 0#8 := rfl
@[simp] theorem CoreState.cleared_p3 : CoreState.cleared.p3 = 0#8 := rfl

@[simp] theorem ResultRegs.cleared_valid : ResultRegs.cleared.valid = false := rfl
@[simp] theorem ResultRegs.cleared_decoded : ResultRegs.cleared.decoded = false := rfl
@[simp] theorem ResultRegs.cleared_reason : ResultRegs.cleared.reason = .none := rfl
@[simp] theorem ResultRegs.cleared_payload : ResultRegs.cleared.payload = 0#32 := rfl

variable (r : ResultRegs) (w : Word) (q : IncompleteReason)

@[simp] theorem ResultRegs.clearValid_valid : r.clearValid.valid = false := rfl
@[simp] theorem ResultRegs.clearValid_decoded : r.clearValid.decoded = r.decoded := rfl
@[simp] theorem ResultRegs.clearValid_reason : r.clearValid.reason = r.reason := rfl
@[simp] theorem ResultRegs.clearValid_payload : r.clearValid.payload = r.payload := rfl
@[simp] theorem ResultRegs.clearValid_published : r.clearValid.published = none := rfl

@[simp] theorem ResultRegs.ofDecoded_valid : (ResultRegs.ofDecoded w).valid = true := rfl
@[simp] theorem ResultRegs.ofDecoded_decoded : (ResultRegs.ofDecoded w).decoded = true := rfl
@[simp] theorem ResultRegs.ofDecoded_reason : (ResultRegs.ofDecoded w).reason = .decoded := rfl
@[simp] theorem ResultRegs.ofDecoded_payload : (ResultRegs.ofDecoded w).payload = w := rfl

@[simp] theorem ResultRegs.ofIncomplete_valid : (ResultRegs.ofIncomplete q w).valid = true := rfl
@[simp] theorem ResultRegs.ofIncomplete_decoded : (ResultRegs.ofIncomplete q w).decoded = false := rfl
@[simp] theorem ResultRegs.ofIncomplete_reason : (ResultRegs.ofIncomplete q w).reason = q.toReason := rfl
@[simp] theorem ResultRegs.ofIncomplete_payload : (ResultRegs.ofIncomplete q w).payload = w := rfl

variable (s : State) (c : CoreState) (pw : PortWord)

@[simp] theorem State.reset_core : State.reset.core = CoreState.cleared := rfl
@[simp] theorem State.reset_res : State.reset.res = ResultRegs.cleared := rfl
@[simp] theorem State.reset_resetApplied : State.reset.resetApplied = true := rfl
@[simp] theorem State.reset_input : State.reset.input = [] := rfl

@[simp] theorem State.clearValid_core : s.clearValid.core = s.core := rfl
@[simp] theorem State.clearValid_res : s.clearValid.res = s.res.clearValid := rfl
@[simp] theorem State.clearValid_resetApplied : s.clearValid.resetApplied = s.resetApplied := rfl
@[simp] theorem State.clearValid_input : s.clearValid.input = s.input := rfl
@[simp] theorem State.clearValid_payloadDraws : s.clearValid.payloadDraws = s.payloadDraws := rfl
@[simp] theorem State.clearValid_hostDraws : s.clearValid.hostDraws = s.hostDraws := rfl

@[simp] theorem State.setCore_core : (s.setCore c).core = c := rfl
@[simp] theorem State.setCore_res : (s.setCore c).res = s.res := rfl
@[simp] theorem State.setCore_resetApplied : (s.setCore c).resetApplied = s.resetApplied := rfl
@[simp] theorem State.setCore_input : (s.setCore c).input = s.input := rfl
@[simp] theorem State.setCore_payloadDraws : (s.setCore c).payloadDraws = s.payloadDraws := rfl
@[simp] theorem State.setCore_hostDraws : (s.setCore c).hostDraws = s.hostDraws := rfl

@[simp] theorem State.applyReset_core : s.applyReset.core = CoreState.cleared := rfl
@[simp] theorem State.applyReset_res : s.applyReset.res = ResultRegs.cleared := rfl
@[simp] theorem State.applyReset_resetApplied : s.applyReset.resetApplied = true := rfl
@[simp] theorem State.applyReset_input : s.applyReset.input = s.input := rfl
@[simp] theorem State.applyReset_payloadDraws : s.applyReset.payloadDraws = s.payloadDraws := rfl
@[simp] theorem State.applyReset_hostDraws : s.applyReset.hostDraws = s.hostDraws := rfl

@[simp] theorem State.pushWord_core : (s.pushWord pw).core = s.core := rfl
@[simp] theorem State.pushWord_res : (s.pushWord pw).res = s.res := rfl
@[simp] theorem State.pushWord_resetApplied : (s.pushWord pw).resetApplied = s.resetApplied := rfl
@[simp] theorem State.pushWord_input : (s.pushWord pw).input = pw :: s.input := rfl
@[simp] theorem State.pushWord_payloadDraws : (s.pushWord pw).payloadDraws = s.payloadDraws := rfl
@[simp] theorem State.pushWord_hostDraws : (s.pushWord pw).hostDraws = s.hostDraws := rfl

@[simp] theorem State.pushWord_sampledWord : (s.pushWord pw).sampledWord = pw := rfl
@[simp] theorem State.pushWord_afterSample : (s.pushWord pw).afterSample = s := rfl

@[simp] theorem State.afterSample_core : s.afterSample.core = s.core := by
  unfold State.afterSample; split <;> rfl
@[simp] theorem State.afterSample_res : s.afterSample.res = s.res := by
  unfold State.afterSample; split <;> rfl
@[simp] theorem State.afterSample_resetApplied : s.afterSample.resetApplied = s.resetApplied := by
  unfold State.afterSample; split <;> rfl
@[simp] theorem State.afterSample_input : s.afterSample.input = s.input.tail := by
  unfold State.afterSample; split <;> simp_all
@[simp] theorem State.afterSample_payloadDraws : s.afterSample.payloadDraws = s.payloadDraws := by
  unfold State.afterSample; split <;> rfl

@[simp] theorem State.outPorts_resValid : s.outPorts.resValid = BitVec.ofBool s.res.valid := rfl
@[simp] theorem State.outPorts_resDecoded : s.outPorts.resDecoded = BitVec.ofBool s.res.decoded := rfl
@[simp] theorem State.outPorts_resReason : s.outPorts.resReason = s.res.reason.code := rfl
@[simp] theorem State.outPorts_resPayload : s.outPorts.resPayload = s.res.payload := rfl

@[simp] theorem State.publish_core : s.publish.core = CoreState.cleared := by
  unfold State.publish; split <;> rfl
@[simp] theorem State.publish_valid : s.publish.res.valid = true := by
  unfold State.publish; split <;> rfl
@[simp] theorem State.publish_resetApplied : s.publish.resetApplied = s.resetApplied := by
  unfold State.publish; split <;> rfl
@[simp] theorem State.publish_input : s.publish.input = s.input := by
  unfold State.publish; split <;> rfl
@[simp] theorem State.publish_hostDraws : s.publish.hostDraws = s.hostDraws := by
  unfold State.publish; split <;> rfl

end Sys2Proof.Machine
end

