-- ==== Sys2Proof/Laws/Ops.lean ====
section
/-! SUPPORT. One lemma per shared operation that says everything it can do; proofs cite these and do not unfold the
operations. -/

namespace Sys2Proof.Machine

/-- A token meaning under the launch premise answers only what its body answers, and only after RESET. -/
theorem afterReset_next {s t : State} {k : Host.Outcome State Fault Refusal}
    (h : afterReset s k = .next t) : s.resetApplied = true ∧ k = .next t := by
  unfold afterReset at h
  split at h
  · exact ⟨‹_›, h⟩
  · cases h

/-- Under the launch premise the body is all there is. -/
theorem afterReset_of_applied {s : State} (h : s.resetApplied = true)
    (k : Host.Outcome State Fault Refusal) : afterReset s k = k := by simp [afterReset, h]

/-- What a token other than RESET does without the launch premise. -/
theorem afterReset_of_not_applied {s : State} (h : s.resetApplied = false)
    (k : Host.Outcome State Fault Refusal) : afterReset s k = .refused .beforeReset := by simp [afterReset, h]

/-- Storing a payload byte writes p(k) alone, and needs k to be 0..3 (40_scan_operations.md R105). -/
theorem CoreState.storePayload_eq_some {c c' : CoreState} {b : Byte} (h : c.storePayload b = some c') :
    (c.k = 0#3 ∧ c' = { c with p0 := b }) ∨ (c.k = 1#3 ∧ c' = { c with p1 := b }) ∨
    (c.k = 2#3 ∧ c' = { c with p2 := b }) ∨ (c.k = 3#3 ∧ c' = { c with p3 := b }) := by
  unfold CoreState.storePayload at h
  split at h
  · exact .inl ⟨BitVec.eq_of_toNat_eq ‹_›, (Option.some.inj h).symm⟩
  · exact .inr (.inl ⟨BitVec.eq_of_toNat_eq ‹_›, (Option.some.inj h).symm⟩)
  · exact .inr (.inr (.inl ⟨BitVec.eq_of_toNat_eq ‹_›, (Option.some.inj h).symm⟩))
  · exact .inr (.inr (.inr ⟨BitVec.eq_of_toNat_eq ‹_›, (Option.some.inj h).symm⟩))
  · cases h

/-- The four forms of a payload byte's storing step, by the value of k. -/
theorem byteInCollectPayload_of_count {c : CoreState} (b : Byte) :
    (c.k = 0#3 → byteInCollectPayload b c = some { c with
      p0 := b, k := 1#3, phase := if b = Config.sync then .stuffSkip else .collectPayload }) ∧
    (c.k = 1#3 → byteInCollectPayload b c = some { c with
      p1 := b, k := 2#3, phase := if b = Config.sync then .stuffSkip else .collectPayload }) ∧
    (c.k = 2#3 → byteInCollectPayload b c = some { c with
      p2 := b, k := 3#3, phase := if b = Config.sync then .stuffSkip else .collectPayload }) ∧
    (c.k = 3#3 → byteInCollectPayload b c = some { c with p3 := b, k := 4#3, phase := .emit }) ∧
    (3 < c.k.toNat → byteInCollectPayload b c = none) := by
  refine ⟨fun h => ?_, fun h => ?_, fun h => ?_, fun h => ?_, fun h => ?_⟩
  · simp [byteInCollectPayload, CoreState.storePayload, h]
  · simp [byteInCollectPayload, CoreState.storePayload, h]
  · simp [byteInCollectPayload, CoreState.storePayload, h]
  · simp [byteInCollectPayload, CoreState.storePayload, h]
  · have : c.storePayload b = none := by
      unfold CoreState.storePayload
      split <;> first | omega | rfl
    simp [byteInCollectPayload, this]

/-- The byte's sub-rule of each phase (40_scan_operations.md R102). -/
theorem CoreState.consume_of_phase (c : CoreState) (b : Byte) :
    (c.phase = .seekSync → c.consume b = some (byteInSeekSync b c)) ∧
    (c.phase = .consumeType → c.consume b = some (byteInConsumeType b c)) ∧
    (c.phase = .collectPayload → c.consume b = byteInCollectPayload b c) ∧
    (c.phase = .stuffSkip → c.consume b = some (byteInStuffSkip b c)) ∧
    (c.phase = .emit → c.consume b = some (byteInEmit b c)) :=
  ⟨fun h => by simp [CoreState.consume, h], fun h => by simp [CoreState.consume, h],
   fun h => by simp [CoreState.consume, h], fun h => by simp [CoreState.consume, h],
   fun h => by simp [CoreState.consume, h]⟩

/-- The two ways a chunk's result is published (40_scan_operations.md R108). -/
theorem State.publish_cases (s : State) :
    (s.core.phase = .emit ∧ s.publish =
      { s with core := CoreState.cleared, res := ResultRegs.ofDecoded s.core.word }) ∨
    (∃ r, s.core.result = .incomplete r ∧ s.publish =
      { s with
        core := CoreState.cleared
        res := ResultRegs.ofIncomplete r (Config.payloadDraw s.payloadDraws)
        payloadDraws := s.payloadDraws + 1 }) := by
  unfold State.publish CoreState.result
  cases h : s.core.phase <;> simp

/-- The bytes of the payload word are the payload bytes (20_memory.md R53: "The two views always agree"). -/
theorem wordByte_payloadWord (p0 p1 p2 p3 : Byte) :
    wordByte (payloadWord p0 p1 p2 p3) 0 = p0 ∧ wordByte (payloadWord p0 p1 p2 p3) 1 = p1 ∧
    wordByte (payloadWord p0 p1 p2 p3) 2 = p2 ∧ wordByte (payloadWord p0 p1 p2 p3) 3 = p3 := by
  refine ⟨?_, ?_, ?_, ?_⟩ <;> apply BitVec.eq_of_getLsbD_eq <;> intro i hi <;>
    simp only [wordByte, payloadWord, BitVec.getLsbD_extractLsb', BitVec.getLsbD_append]
  · simp [hi]
  · simp [hi]
  · simp [hi, show ¬ 16 + i < 8 by omega, show ¬ 16 + i - 8 < 8 by omega, show 16 + i - 8 - 8 = i by omega]
  · simp [hi, show ¬ 24 + i < 8 by omega, show ¬ 24 + i - 8 < 8 by omega, show ¬ 24 + i - 8 - 8 < 8 by omega,
      show 24 + i - 8 - 8 - 8 = i by omega]

/-- What a step publishes is the result of the core as it stood (40_scan_operations.md R108). -/
theorem State.publish_published (s : State) : s.publish.published = some s.core.result := by
  rcases s.publish_cases with ⟨hp, h⟩ | ⟨r, hr, h⟩
  · obtain ⟨h0, h1, h2, h3⟩ := wordByte_payloadWord s.core.p0 s.core.p1 s.core.p2 s.core.p3
    simp [State.published, h, ResultRegs.published, CoreState.result, hp, CoreState.word, h0, h1, h2, h3]
  · rw [hr]
    cases r <;> simp [State.published, h, ResultRegs.published, IncompleteReason.toReason]

end Sys2Proof.Machine
end

