-- ==== Sys2Proof/Laws/Exec.lean ====
section
/-! SUPPORT. What a token can do, said once: the inversion of `exec`, and how `runTokens` is put together. -/

namespace Sys2Proof.Machine

/-- Every way a token answers a next state. -/
theorem exec_next_cases {i : Instr} {s t : State} (h : exec i s = .next t) :
    (i = .idle ∧ s.resetApplied = true ∧ t = s.clearValid) ∨
    (∃ b c, i = .byte b ∧ s.resetApplied = true ∧ s.core.consume b = some c ∧ t = (s.setCore c).clearValid) ∨
    (i = .endChunk ∧ s.resetApplied = true ∧ t = s.publish) ∨
    (∃ b c, i = .byteEnd b ∧ s.resetApplied = true ∧ s.core.consume b = some c ∧ t = (s.setCore c).publish) ∨
    (i = .reset ∧ t = s.applyReset) := by
  cases i with
  | idle =>
    obtain ⟨ha, hk⟩ := afterReset_next h
    cases hk
    exact .inl ⟨rfl, ha, rfl⟩
  | byte b =>
    obtain ⟨ha, hk⟩ := afterReset_next h
    split at hk
    · rename_i c hc
      cases hk
      exact .inr (.inl ⟨b, c, rfl, ha, hc, rfl⟩)
    · cases hk
  | endChunk =>
    obtain ⟨ha, hk⟩ := afterReset_next h
    cases hk
    exact .inr (.inr (.inl ⟨rfl, ha, rfl⟩))
  | byteEnd b =>
    obtain ⟨ha, hk⟩ := afterReset_next h
    split at hk
    · rename_i c hc
      cases hk
      exact .inr (.inr (.inr (.inl ⟨b, c, rfl, ha, hc, rfl⟩)))
    · cases hk
  | reset =>
    cases h
    exact .inr (.inr (.inr (.inr ⟨rfl, rfl⟩)))

/-- BYTE's effect once its byte has been consumed. -/
theorem exec_byte_of_consume {s : State} {b : Byte} {c : CoreState} (ha : s.resetApplied = true)
    (hc : s.core.consume b = some c) : exec (.byte b) s = .next (s.setCore c).clearValid := by
  simp [exec, execByte, afterReset, ha, hc]

/-- BYTE_END's effect once its byte has been consumed. -/
theorem exec_byteEnd_of_consume {s : State} {b : Byte} {c : CoreState} (ha : s.resetApplied = true)
    (hc : s.core.consume b = some c) : exec (.byteEnd b) s = .next (s.setCore c).publish := by
  simp [exec, execByteEnd, afterReset, ha, hc]

/-- END's effect. -/
theorem exec_endChunk_of_applied {s : State} (ha : s.resetApplied = true) :
    exec .endChunk s = .next s.publish := by
  simp [exec, execEnd, afterReset, ha]

/-- IDLE's effect. -/
theorem exec_idle_of_applied {s : State} (ha : s.resetApplied = true) :
    exec .idle s = .next s.clearValid := by
  simp [exec, execIdle, afterReset, ha]

/-- Running one token more at the front. -/
theorem runTokens_cons_of_next {t : Instr} {ts : List Instr} {s s1 s2 : State} {rs : List Result}
    (h1 : exec t s = .next s1) (h2 : runTokens ts s1 = .next (s2, rs)) :
    runTokens (t :: ts) s = .next (s2, s1.published.toList ++ rs) := by
  simp [runTokens, h1, h2]

/-- A run that completes begins with a token that does. -/
theorem runTokens_cons_next {t : Instr} {ts : List Instr} {s s2 : State} {rs : List Result}
    (h : runTokens (t :: ts) s = .next (s2, rs)) :
    ∃ s1 rs1, exec t s = .next s1 ∧ runTokens ts s1 = .next (s2, rs1) ∧ rs = s1.published.toList ++ rs1 := by
  unfold runTokens at h
  split at h
  · rename_i s1 h1
    split at h
    · rename_i u rs1 h2
      cases h
      exact ⟨s1, rs1, h1, h2, rfl⟩
    · cases h
    · cases h
  · cases h
  · cases h

/-- Two sequences run one after the other. -/
theorem runTokens_append {ts us : List Instr} {s s1 s2 : State} {rs1 rs2 : List Result}
    (h1 : runTokens ts s = .next (s1, rs1)) (h2 : runTokens us s1 = .next (s2, rs2)) :
    runTokens (ts ++ us) s = .next (s2, rs1 ++ rs2) := by
  induction ts generalizing s rs1 with
  | nil =>
    simp only [runTokens, Host.Outcome.next.injEq, Prod.mk.injEq] at h1
    obtain ⟨rfl, rfl⟩ := h1
    simpa using h2
  | cons t ts ih =>
    obtain ⟨u, rs', hu, hr, rfl⟩ := runTokens_cons_next h1
    simpa using runTokens_cons_of_next hu (ih hr)

end Sys2Proof.Machine
end

