-- ==== Sys2Proof/Laws/PerInstr.lean ====
section
/-! SUPPORT. Per token: it is well-formed, and its encoding is a canonical word that matches the row of its name
(30_encoding.md R72, R74). -/

namespace Sys2Proof.Laws.CanonicalWord

/-- A token is well-formed, and its word is canonical and matches its own row. -/
def Statement (i : Instr) : Prop :=
  i.wellFormed = true ∧ PortWord.canonical (encode i) = true ∧
  ∃ r ∈ tokenRows, r.mnemonic = i.mnemonic ∧ r.matchesWord (encode i) = true

theorem idle : Statement .idle := by unfold Statement; decide

theorem byte (b : Byte) : Statement (.byte b) := by
  refine ⟨rfl, ?_, ⟨"BYTE", 0x700#11, 0x100#11⟩, by decide, rfl, ?_⟩
  · revert b; decide
  · revert b; decide

theorem endChunk : Statement .endChunk := by unfold Statement; decide

theorem byteEnd (b : Byte) : Statement (.byteEnd b) := by
  refine ⟨rfl, ?_, ⟨"BYTE_END", 0x700#11, 0x300#11⟩, by decide, rfl, ?_⟩
  · revert b; decide
  · revert b; decide

theorem reset : Statement .reset := by unfold Statement; decide

end Sys2Proof.Laws.CanonicalWord
end

