-- ==== Sys2Proof/Tests/Slice0.lean ====
section
/-! SUPPORT. Tests with results from the spec's own tables (95_test_vectors.md), the well-formedness smoke test, and a
witness for each obligation that has hypotheses. -/

namespace Sys2Proof.Tests

open Sys2Proof.Machine

/-- The reset state with another core. -/
def withCore (p : Phase) (k : BitVec 3) (a b c d : Byte) : State :=
  { State.reset with core := ⟨p, k, a, b, c, d⟩ }

/-- The state after one token, if the token completes. -/
def after (i : Instr) (s : State) : Option State :=
  match exec i s with
  | .next t => some t
  | _ => none

/-- The core after one token. -/
def coreAfter (i : Instr) (s : State) : Option CoreState := (after i s).map (·.core)

/-- `res_valid`, `res_decoded` and `res_reason` after one token. -/
def flagsAfter (i : Instr) (s : State) : Option (Bool × Bool × Reason) :=
  (after i s).map fun t => (t.res.valid, t.res.decoded, t.res.reason)

/-- The reset state before any RESET: a power-up state with these register values. -/
def powerUp : State := { State.reset with resetApplied := false }

/-- Another result register content: the one V-E6 leaves. -/
def heldResult : ResultRegs := ⟨true, true, .decoded, 0x78563412#32⟩

/-! ### Well-formedness: what each check refuses -/

/-- A word with data on an IDLE is not the canonical one (30_encoding.md R72). -/
theorem test_wf_idle_with_data_not_canonical : PortWord.canonical 0x0FF#11 = false := by decide
/-- Nor is a RESET with V set. -/
theorem test_wf_reset_with_valid_not_canonical : PortWord.canonical 0x5AA#11 = false := by decide
theorem test_wf_byte_canonical : PortWord.canonical 0x1AA#11 = true := by decide
/-- A FRAME with type 0xAA is ill-formed (30_encoding.md R84). -/
theorem test_wf_frame_type_sync_refused : frameTypeWellFormed 0xAA#8 = false := by decide
/-- A CHUNKJ of no bytes is ill-formed (30_encoding.md R84). -/
theorem test_wf_empty_chunkJ_refused : chunkJWellFormed [] = false := by decide

/-! ### Decoding words written out bit by bit (30_encoding.md R71, R72; 95_test_vectors.md section 2.1) -/

theorem test_decode_idle : decodeWord 0b00000000000#11 = .idle := by decide
theorem test_decode_idle_ignores_data : decodeWord 0b00011111111#11 = .idle := by decide
theorem test_decode_byte : decodeWord 0b00110101010#11 = .byte 0xAA#8 := by decide
theorem test_decode_byte_bit_order : decodeWord 0b00100000001#11 = .byte 0x01#8 := by decide
theorem test_decode_end : decodeWord 0b01010101010#11 = .endChunk := by decide
theorem test_decode_byteEnd : decodeWord 0b01110101010#11 = .byteEnd 0xAA#8 := by decide
theorem test_decode_reset : decodeWord 0b10000000000#11 = .reset := by decide
theorem test_decode_reset_over_all : decodeWord 0b11111111111#11 = .reset := by decide
theorem test_decode_table_word : decodeTableWord 16 0x3AA = some (.byteEnd 0xAA#8) := by decide
/-- A twelfth bit has no pin, and is rejected by name. -/
theorem test_decode_too_wide : decodeNat 0x800 = .error .widerThanPort := by rfl
theorem test_ports_word : (InPorts.mk false true true 0x42#8).word = 0x342#11 := by decide

/-! ### One step of each token (95_test_vectors.md sections 2.2 and 2.3) -/

/-- V-E10: IDLE holds the core, and drops `res_valid` alone. -/
theorem test_idle_holds :
    (after .idle { withCore .collectPayload 2#3 0x12#8 0x34#8 0#8 0#8 with res := heldResult }).map
        (fun t => (t.core, t.res)) =
      some (⟨.collectPayload, 2#3, 0x12#8, 0x34#8, 0#8, 0#8⟩, ⟨false, true, .decoded, 0x78563412#32⟩) := by
  decide

/-- V-B1, V-B3, V-B4, V-B5: the sync search. -/
theorem test_byte_sync_search :
    coreAfter (.byte 0x00#8) State.reset = some State.reset.core ∧
    coreAfter (.byte 0xAA#8) State.reset = some ⟨.consumeType, 0#3, 0#8, 0#8, 0#8, 0#8⟩ ∧
    coreAfter (.byte 0xAA#8) (withCore .consumeType 0#3 0#8 0#8 0#8 0#8) =
      some ⟨.consumeType, 0#3, 0#8, 0#8, 0#8, 0#8⟩ ∧
    coreAfter (.byte 0x00#8) (withCore .consumeType 0#3 0#8 0#8 0#8 0#8) =
      some ⟨.collectPayload, 0#3, 0#8, 0#8, 0#8, 0#8⟩ := by
  decide

/-- V-B7, V-B9, V-B11, V-B13, V-B14: payload bytes, the skip and the drained rest. -/
theorem test_byte_payload :
    coreAfter (.byte 0x12#8) (withCore .collectPayload 0#3 0#8 0#8 0#8 0#8) =
      some ⟨.collectPayload, 1#3, 0x12#8, 0#8, 0#8, 0#8⟩ ∧
    coreAfter (.byte 0xAA#8) (withCore .collectPayload 2#3 0x12#8 0x34#8 0#8 0#8) =
      some ⟨.stuffSkip, 3#3, 0x12#8, 0x34#8, 0xAA#8, 0#8⟩ ∧
    coreAfter (.byte 0xAA#8) (withCore .collectPayload 3#3 0x12#8 0x34#8 0x56#8 0#8) =
      some ⟨.emit, 4#3, 0x12#8, 0x34#8, 0x56#8, 0xAA#8⟩ ∧
    coreAfter (.byte 0x55#8) (withCore .stuffSkip 1#3 0xAA#8 0#8 0#8 0#8) =
      some ⟨.collectPayload, 1#3, 0xAA#8, 0#8, 0#8, 0#8⟩ ∧
    coreAfter (.byte 0xAA#8) (withCore .emit 4#3 0x12#8 0x34#8 0x56#8 0x78#8) =
      some ⟨.emit, 4#3, 0x12#8, 0x34#8, 0x56#8, 0x78#8⟩ := by
  decide

/-- V-E6: a Decoded result, little-endian, and the core starts afresh. -/
theorem test_end_decoded :
    (after .endChunk (withCore .emit 4#3 0x12#8 0x34#8 0x56#8 0x78#8)).map (fun t => (t.core, t.res)) =
      some (State.reset.core, ⟨true, true, .decoded, 0x78563412#32⟩) := by
  decide

/-- V-E1, V-E2, V-E3, V-E5: the Incomplete results. -/
theorem test_end_incomplete :
    flagsAfter .endChunk State.reset = some (true, false, .noSync) ∧
    flagsAfter .endChunk (withCore .consumeType 0#3 0#8 0#8 0#8 0#8) = some (true, false, .noSync) ∧
    flagsAfter .endChunk (withCore .collectPayload 0#3 0#8 0#8 0#8 0#8) = some (true, false, .shortFrame) ∧
    flagsAfter .endChunk (withCore .stuffSkip 3#3 0x12#8 0x34#8 0xAA#8 0#8) = some (true, false, .shortFrame) := by
  decide

/-- V-E7: the byte is taken before the end. -/
theorem test_byteEnd_decoded :
    (after (.byteEnd 0x78#8) (withCore .collectPayload 3#3 0x12#8 0x34#8 0x56#8 0#8)).map
        (fun t => (t.core, t.res)) =
      some (State.reset.core, ⟨true, true, .decoded, 0x78563412#32⟩) := by
  decide

/-- V-E8, V-E9: a last byte in CONSUME_TYPE. -/
theorem test_byteEnd_incomplete :
    flagsAfter (.byteEnd 0xAA#8) (withCore .consumeType 0#3 0#8 0#8 0#8 0#8) = some (true, false, .noSync) ∧
    flagsAfter (.byteEnd 0x42#8) (withCore .consumeType 0#3 0#8 0#8 0#8 0#8) = some (true, false, .shortFrame) := by
  decide

/-- V-E11: RESET from any state, with a held result. -/
theorem test_reset_all :
    after .reset { withCore .stuffSkip 2#3 0x12#8 0xAA#8 0#8 0#8 with res := heldResult } = some State.reset := by
  decide

/-- 70_reset_and_hazards.md R203. -/
theorem test_reset_is_the_first_token :
    after .idle powerUp = none ∧ after .reset powerUp = some State.reset := by
  decide

/-! ### The reference function and the float view (95_test_vectors.md sections 2.4 and 2.5) -/

/-- V-ST1, V-ST3, V-ST5b, V-ST8d, V-ST6. -/
theorem test_scan_incomplete :
    scan [] = .incomplete .noSync ∧ scan [0xAA#8] = .incomplete .noSync ∧
    scan [0xAA#8, 0x42#8, 0#8, 0#8, 0x80#8] = .incomplete .shortFrame ∧
    scan [0xAA#8, 0x01#8, 0#8, 0#8, 0xAA#8] = .incomplete .shortFrame ∧
    scan [0xAA#8, 0x01#8, 0xAA#8, 0x01#8, 0x02#8, 0x03#8] = .incomplete .shortFrame := by
  decide

/-- V-ST7d, V-ST8 (E2, conflict C1), V-ST6b (conflict C2), V-ST4 (conflict C3). -/
theorem test_scan_decoded :
    (scan [0xAA#8, 0xAA#8, 0x42#8, 0#8, 0#8, 0x80#8, 0x3F#8]).word = some 0x3F800000#32 ∧
    (scan [0xAA#8, 0x01#8, 0#8, 0#8, 0xAA#8, 0xAA#8, 0x3F#8, 0x80#8]).word = some 0x3FAA0000#32 ∧
    (scan [0xAA#8, 0x01#8, 0xAA#8, 0x55#8, 0x01#8, 0x02#8, 0x03#8]).word = some 0x030201AA#32 ∧
    (scan [0xAA#8, 0x05#8, 0xAA#8, 0x42#8, 0#8, 0#8, 0x80#8, 0x3F#8]).word = some 0x800000AA#32 := by
  decide

/-- 0x3F800000 is 1.0 = 2^23 * 2^-23, 0xAA000000 is -2^-43 = -2^23 * 2^-66, 0x7FC00000 is a NaN, 0x7F800000 an
infinity. -/
theorem test_float_view :
    (Binary32.ofWord 0x3F800000#32).value = some (8388608, -23) ∧
    (Binary32.ofWord 0xAA000000#32).value = some (-8388608, -66) ∧
    (Binary32.ofWord 0x7FC00000#32).isNaN = true ∧ (Binary32.ofWord 0x7F800000#32).isInf = true := by
  decide

theorem test_token_line : tokenLine (.byteEnd 0x3F#8) =
    ['B', 'Y', 'T', 'E', '_', 'E', 'N', 'D', ' ', '0', 'x', '3', 'F'] := by decide
theorem test_parse_line : parseLine ['E', 'N', 'D', ' ', ';', 'x'] = some .endChunk := by decide

/-! ### Witnesses: concrete states and operands that meet the hypotheses of each obligation -/

/-- A clause of `TokenDecodeTable` for each row, at the ends of the data range. -/
theorem witness_TokenDecodeTable :
    0x0FF#11 &&& 0x700#11 = 0x000#11 ∧ 0x1FF#11 &&& 0x700#11 = 0x100#11 ∧ 0x200#11 &&& 0x700#11 = 0x200#11 ∧
    0x3FF#11 &&& 0x700#11 = 0x300#11 ∧ 0x7FF#11 &&& 0x400#11 = 0x400#11 := by decide
/-- Both ways to meet the premise: V = 0 with R = 0, and R = 1 with V = 1. -/
theorem witness_IgnoredFieldsHaveNoEffect :
    (false = false ∨ false = true) ∧ (true = false ∨ true = true) ∧
    (InPorts.mk false true false 0x00#8).word ≠ (InPorts.mk false true false 0xFF#8).word := by decide
theorem witness_DecodeEncodeRoundTrip : (Instr.byteEnd 0xFF#8).wellFormed = true := by decide
theorem witness_StepRunsTheSampledToken :
    ({ State.reset with input := [0x1AA#11, 0x142#11] } : State).input = 0x1AA#11 :: [0x142#11] := by decide
/-- A publishing step, and a chunk for each row of the table: DECODED at the shortest frame, NO_SYNC at a trailing 0xAA,
SHORT_FRAME one byte before the frame is complete. -/
theorem witness_ReasonCodeTable :
    exec .endChunk (withCore .emit 4#3 0x12#8 0x34#8 0x56#8 0x78#8) = .next { State.reset with res := heldResult } ∧
    ({ State.reset with res := heldResult } : State).outPorts.resValid = 1#1 ∧ State.reset.AtBoundary ∧
    scan [0xAA#8, 0x42#8, 0#8, 0#8, 0x80#8, 0x3F#8] = .decoded 0#8 0#8 0x80#8 0x3F#8 ∧
    (∀ i, isCandidate [0xAA#8] i = false) ∧
    isCandidate [0xAA#8, 0x42#8, 0#8, 0#8, 0x80#8] 0 = true ∧
    (∀ q0 q1 q2 q3, scan [0xAA#8, 0x42#8, 0#8, 0#8, 0x80#8] ≠ .decoded q0 q1 q2 q3) :=
  ⟨rfl, by decide, by decide, by decide, fun j => by cases j <;> rfl, by decide, fun _ _ _ _ h => by cases h⟩
theorem witness_UndrivenEdgeSamplesAFreeWord : State.reset.input = [] := by decide
theorem witness_FetchedTableWordRuns : decodeTableWord 16 0x200 = some .endChunk := by decide
theorem witness_StepsRunTheTokenSequence :
    runTokens [.idle] { State.reset with input := [] } = .next (State.reset, []) := by rfl
/-- The launch premise of every token statement, and a core in each phase at the ends of its count. -/
theorem witness_token_statements :
    State.reset.resetApplied = true ∧ State.reset.core.phase = .seekSync ∧
    (withCore .consumeType 0#3 0#8 0#8 0#8 0#8).core.phase = .consumeType ∧
    (withCore .collectPayload 0#3 0#8 0#8 0#8 0#8).core.k.toNat ≤ 3 ∧
    (withCore .collectPayload 3#3 1#8 2#8 3#8 0#8).core.k.toNat ≤ 3 ∧
    (withCore .stuffSkip 3#3 1#8 2#8 0xAA#8 0#8).core.phase = .stuffSkip ∧
    (withCore .emit 4#3 1#8 2#8 3#8 4#8).core.phase = .emit := by decide
theorem witness_IdleClearsValidOnly : State.reset.resetApplied = true := by decide
theorem witness_ByteInSeekSync : State.reset.resetApplied = true ∧ State.reset.core.phase = .seekSync := by decide
theorem witness_ByteInConsumeType :
    (withCore .consumeType 0#3 0#8 0#8 0#8 0#8).resetApplied = true ∧
    (withCore .consumeType 0#3 0#8 0#8 0#8 0#8).core.phase = .consumeType := by decide
theorem witness_ByteInCollectPayload :
    (withCore .collectPayload 3#3 1#8 2#8 3#8 0#8).resetApplied = true ∧
    (withCore .collectPayload 3#3 1#8 2#8 3#8 0#8).core.phase = .collectPayload ∧
    (withCore .collectPayload 3#3 1#8 2#8 3#8 0#8).core.k.toNat ≤ 3 := by decide
theorem witness_ByteInStuffSkip :
    (withCore .stuffSkip 1#3 0xAA#8 0#8 0#8 0#8).resetApplied = true ∧
    (withCore .stuffSkip 1#3 0xAA#8 0#8 0#8 0#8).core.phase = .stuffSkip := by decide
theorem witness_ByteInEmit :
    (withCore .emit 4#3 1#8 2#8 3#8 4#8).resetApplied = true ∧
    (withCore .emit 4#3 1#8 2#8 3#8 4#8).core.phase = .emit := by decide
/-- A state for each of END's three clauses. -/
theorem witness_EndPublishesTheChunksResult :
    (withCore .emit 4#3 1#8 2#8 3#8 4#8).resetApplied = true ∧ (withCore .emit 4#3 1#8 2#8 3#8 4#8).core.phase = .emit ∧
    State.reset.resetApplied = true ∧ State.reset.core.phase = .seekSync ∧
    (withCore .stuffSkip 1#3 0xAA#8 0#8 0#8 0#8).core.phase ≠ .emit ∧
    ¬((withCore .stuffSkip 1#3 0xAA#8 0#8 0#8 0#8).core.phase = .seekSync ∨
      (withCore .stuffSkip 1#3 0xAA#8 0#8 0#8 0#8).core.phase = .consumeType) := by decide
theorem witness_ByteEndIsByteThenEnd :
    exec (.byte 0xAA#8) State.reset = .next (withCore .consumeType 0#3 0#8 0#8 0#8 0#8) := by rfl
/-- A state for each of BYTE_END's four clauses; the second at k = 3, and COLLECT_PAYLOAD with k = 2 for the last. -/
theorem witness_ByteEndResult :
    (withCore .emit 4#3 1#8 2#8 3#8 4#8).core.phase = .emit ∧
    (withCore .collectPayload 3#3 1#8 2#8 3#8 0#8).core.k.toNat = 3 ∧
    ((withCore .collectPayload 3#3 1#8 2#8 3#8 0#8).core.phase = .collectPayload →
      (withCore .collectPayload 3#3 1#8 2#8 3#8 0#8).core.k.toNat ≤ 3) ∧
    (State.reset.core.phase = .collectPayload → State.reset.core.k.toNat ≤ 3) ∧
    State.reset.core.phase = .seekSync ∧
    (withCore .collectPayload 2#3 1#8 2#8 0#8 0#8).resetApplied = true ∧
    (withCore .collectPayload 2#3 1#8 2#8 0#8 0#8).core.k.toNat ≠ 3 := by decide
theorem witness_ResetHeldHasTheEffectOfOneEdge : (InPorts.mk true true true 0xAA#8).rst = true := by decide
theorem witness_TokenBeforeResetIsRefused : powerUp.resetApplied = false ∧ Instr.idle ≠ .reset := by decide
/-- The least count that stops, and the greatest. -/
theorem witness_PayloadCountOutOfRangeIsRefused :
    (withCore .collectPayload 4#3 0#8 0#8 0#8 0#8).resetApplied = true ∧
    (withCore .collectPayload 4#3 0#8 0#8 0#8 0#8).core.phase = .collectPayload ∧
    3 < (withCore .collectPayload 4#3 0#8 0#8 0#8 0#8).core.k.toNat ∧
    3 < (withCore .collectPayload 7#3 0#8 0#8 0#8 0#8).core.k.toNat := by decide
/-- The invariant holds away from reset too. -/
theorem witness_EveryTokenCompletes :
    (withCore .stuffSkip 2#3 0x12#8 0xAA#8 0#8 0#8).Inv ∧ (withCore .emit 4#3 1#8 2#8 3#8 4#8).Inv :=
  ⟨by decide, by decide⟩
theorem witness_ResetFirstProgramNeverStops : ResetFirst [.reset, .byte 0xAA#8, .endChunk] := by decide
/-- An IDLE that completes, and a BYTE that does. -/
theorem witness_IdleAndByteFrame :
    (Instr.idle = .idle ∨ ∃ b, Instr.idle = .byte b) ∧ exec .idle State.reset = .next State.reset ∧
    exec (.byte 0xAA#8) State.reset = .next (withCore .consumeType 0#3 0#8 0#8 0#8 0#8) :=
  ⟨.inl rfl, rfl, rfl⟩
/-- An END that completes with a Decoded result. -/
theorem witness_EndAndByteEndFrame :
    exec .endChunk (withCore .emit 4#3 0x12#8 0x34#8 0x56#8 0x78#8) =
      .next { State.reset with res := heldResult } := by rfl
theorem witness_ChunkEndResetsTheCore :
    exec (.byteEnd 0x78#8) (withCore .collectPayload 3#3 0x12#8 0x34#8 0x56#8 0#8) =
      .next { State.reset with res := heldResult } := by rfl
theorem witness_ValidMarksThePublishingStep :
    exec .endChunk (withCore .emit 4#3 0x12#8 0x34#8 0x56#8 0x78#8) =
      .next { State.reset with res := heldResult } ∧ exec .idle State.reset = .next State.reset := ⟨rfl, rfl⟩
theorem witness_NoTokenReadsAResultRegister :
    exec (.byte 0x13#8) State.reset = .next State.reset ∧ heldResult ≠ State.reset.res :=
  ⟨rfl, by decide⟩
theorem witness_DrawReachesOnlyTheUnreadPayload :
    exec .endChunk State.reset = .next
      { State.reset with res := ⟨true, false, .noSync, Config.payloadDraw 0⟩, payloadDraws := 1 } := by rfl
theorem witness_PublishedPayloadIsLittleEndian :
    (withCore .emit 4#3 1#8 2#8 3#8 4#8).resetApplied = true ∧
    (withCore .emit 4#3 1#8 2#8 3#8 4#8).core.phase = .emit := by decide
theorem witness_StepKeepsInv :
    ({ State.reset with input := [0x1AA#11] } : State).Inv ∧
    step { State.reset with input := [0x1AA#11] } = .next (withCore .consumeType 0#3 0#8 0#8 0#8 0#8) :=
  ⟨by decide, rfl⟩
theorem witness_CountNeverWraps :
    (withCore .collectPayload 3#3 1#8 2#8 3#8 0#8).Inv ∧
    exec (.byte 4#8) (withCore .collectPayload 3#3 1#8 2#8 3#8 0#8) =
      .next (withCore .emit 4#3 1#8 2#8 3#8 4#8) := ⟨by decide, rfl⟩
theorem witness_FirstCandidateIsTheLeast : firstCandidate [0xAA#8, 0xAA#8, 0x42#8] = some 1 := by decide
/-- A chunk delivered as CHUNK with IDLEs, and one delivered as CHUNKJ. -/
theorem witness_DeliveredChunkPublishesItsScan :
    State.reset.AtBoundary ∧
    Delivers [.byte 0xAA#8, .idle, .byte 0x42#8, .idle, .endChunk] [0xAA#8, 0x42#8] ∧
    Delivers [.byte 0xAA#8, .byteEnd 0x42#8, .idle] [0xAA#8, 0x42#8] := by decide
theorem witness_ResultComesAtTheEnd : ({ State.reset with res := heldResult } : State).AtBoundary := by decide
theorem witness_ResultsComeInChunkOrder :
    State.reset.AtBoundary ∧
    ∀ r ∈ [([Instr.endChunk], ([] : List Byte)), ([.byteEnd 0xAA#8], [0xAA#8])], Delivers r.1 r.2 := by decide
theorem witness_ResetAbandonsTheOpenChunk : Delivers [.endChunk] [] := by decide
theorem witness_ChunkWithoutSyncIsIncomplete :
    State.reset.AtBoundary ∧ (∀ i, isCandidate [] i = false) ∧ ([0xAA#8] : List Byte).length ≤ 1 :=
  ⟨by decide, fun _ => rfl, by decide⟩
theorem witness_OpenChunkWaitsWithoutTimeout :
    State.reset.resetApplied = true ∧ runTokens [.idle, .byte 0x13#8] State.reset = .next (State.reset, []) ∧
    (∀ i ∈ [Instr.idle, .byte 0x13#8], i ≠ .endChunk ∧ ∀ b, i ≠ .byteEnd b) :=
  ⟨rfl, rfl, by simp⟩
/-- The longest frame without its last stuffing byte. -/
def longChunk : List Byte := [0xAA#8, 1#8, 0xAA#8, 0xAA#8, 0xAA#8, 0xAA#8, 0xAA#8, 0xAA#8, 0xAA#8]
/-- Candidate 0 and the cursors 2, 4, 6, 8: the last is within the chunk of 9 bytes, and just past the one of 8. -/
theorem witness_ReasonCodesAtChunkLevel :
    firstCandidate longChunk = some 0 ∧ firstCandidate (longChunk.take 8) = some 0 ∧
    4 = 2 + (if longChunk[2]? = some 0xAA#8 then 2 else 1) ∧ 6 = 4 + (if longChunk[4]? = some 0xAA#8 then 2 else 1) ∧
    8 = 6 + (if longChunk[6]? = some 0xAA#8 then 2 else 1) ∧ 8 < longChunk.length ∧
    8 = 6 + (if (longChunk.take 8)[6]? = some 0xAA#8 then 2 else 1) ∧ (longChunk.take 8).length ≤ 8 := by decide
theorem witness_OneFramePerChunk :
    firstCandidate [0x13#8, 0xAA#8, 0x42#8] = some 1 ∧
    scan [0xAA#8, 0x42#8, 0#8, 0#8, 0x80#8, 0x3F#8] = .decoded 0#8 0#8 0x80#8 0x3F#8 := by decide
/-- A prefix of the frame that ends in 0xAA is no hindrance (41_chunk_semantics.md section 3). -/
theorem witness_FrameIsDecoded :
    firstCandidate [0x13#8, 0xAA#8] = none ∧ (∀ j, isCandidate [0xAA#8] j = false) ∧
    frameTypeWellFormed 0x42#8 = true :=
  ⟨by decide, fun j => by cases j <;> rfl, by decide⟩
theorem witness_FramedWordComesBack :
    State.reset.AtBoundary ∧ (∀ j, isCandidate [] j = false) ∧ frameTypeWellFormed 0x01#8 = true :=
  ⟨by decide, fun _ => rfl, by decide⟩
/-- Cut within the payload, and cut at the sync byte. -/
theorem witness_SplitFrameIsLost :
    (∀ j, isCandidate [] j = false) ∧ frameTypeWellFormed 0x42#8 = true ∧
    5 < (frameCore 0x42#8 0#8 0#8 0x80#8 0x3F#8).length ∧ 1 < (frameCore 0x42#8 0#8 0#8 0x80#8 0x3F#8).length :=
  ⟨fun _ => rfl, by decide, by decide, by decide⟩

end Sys2Proof.Tests
end

section
/-! The registers of the reset state (10_state.md R31). -/

namespace Sys2Proof.Machine

/-- RESET always completes, and its effect is `State.applyReset` (40_scan_operations.md R110). -/
theorem exec_reset (s : State) : exec .reset s = .next s.applyReset := rfl

/-- RESET leaves the registers of the reset state, whatever they held before: `applyReset` clears both register groups,
and the cleared groups are those of `State.reset`. -/
theorem exec_reset_leaves_reset_registers (s : State) :
    ∃ t, exec .reset s = .next t ∧ t.core = State.reset.core ∧ t.res = State.reset.res :=
  ⟨s.applyReset, exec_reset s, by simp, by simp⟩

/-- Settles O23: the listed values are read off the definition of the reset state, and RESET leaves them from any
state. -/
theorem resetStateValues : Obligations.ResetStateValues := by
  unfold Obligations.ResetStateValues
  have core_values : State.reset.core = ⟨.seekSync, 0#3, 0x00#8, 0x00#8, 0x00#8, 0x00#8⟩ := rfl
  have res_values : State.reset.res = ⟨false, false, .none, 0x00000000#32⟩ := rfl
  have phase_code : Phase.code State.reset.core.phase = 0b000#3 := rfl
  have reason_port : State.reset.outPorts.resReason = 0b00#2 := rfl
  exact ⟨core_values, res_values, phase_code, reason_port, exec_reset_leaves_reset_registers⟩

end Sys2Proof.Machine
end

section
/-! The published payload word (20_memory.md R52). -/

namespace Sys2Proof.Machine

/-- In EMIT the one result is Decoded (40_scan_operations.md R108), so the word published is that of the payload
registers and never a draw. -/
theorem State.publish_of_emit {s : State} (hp : s.core.phase = .emit) :
    s.publish = { s with core := CoreState.cleared, res := ResultRegs.ofDecoded s.core.word } := by
  rcases s.publish_cases with ⟨_, h⟩ | ⟨r, hr, _⟩
  · exact h
  · simp [CoreState.result, hp] at hr

/-- The bit fields of the payload registers' word: p(j) is byte j, counted from the least significant. -/
theorem CoreState.word_fields (c : CoreState) :
    c.word.extractLsb' 0 8 = c.p0 ∧ c.word.extractLsb' 8 8 = c.p1 ∧
    c.word.extractLsb' 16 8 = c.p2 ∧ c.word.extractLsb' 24 8 = c.p3 :=
  wordByte_payloadWord c.p0 c.p1 c.p2 c.p3

/-- Settles O35: END in EMIT publishes the payload registers' word, and its bit fields are those registers. -/
theorem publishedPayloadIsLittleEndian : Obligations.PublishedPayloadIsLittleEndian := by
  unfold Obligations.PublishedPayloadIsLittleEndian
  intro s applied emitting
  have published_word : s.publish.res.payload = s.core.word := by
    rw [State.publish_of_emit emitting, ResultRegs.ofDecoded_payload]
  refine ⟨s.publish, exec_endChunk_of_applied applied, ?_⟩
  rw [published_word]
  exact s.core.word_fields

end Sys2Proof.Machine
end

section
/-! Token decode and its ignored fields (30_encoding.md R72, R73), and the phase codes (R80). -/

namespace Sys2Proof

/-- W[7:0] of the sampled word is `in_data` (30_encoding.md R71). -/
theorem InPorts.getLsbD_word_data (p : InPorts) {i : Nat} (hi : i < 8) :
    p.word.getLsbD i = p.inData.getLsbD i :=
  BitVec.getLsbD_append.trans (if_pos hi)

/-- W[10:8] of the sampled word is `rst`, `in_end`, `in_valid` (30_encoding.md R71). -/
theorem InPorts.getLsbD_word_control (p : InPorts) (i : Nat) :
    p.word.getLsbD (i + 8) =
      (BitVec.ofBool p.rst ++ BitVec.ofBool p.inEnd ++ BitVec.ofBool p.inValid).getLsbD i :=
  BitVec.getLsbD_append.trans (by simp)

/-- Sampling the word of some port values gives those values back (30_encoding.md R71). -/
theorem InPorts.ofWord_word (p : InPorts) : InPorts.ofWord p.word = p := by
  have data : p.word.extractLsb' 0 8 = p.inData := by
    apply BitVec.eq_of_getLsbD_eq
    intro i hi
    simp [hi, p.getLsbD_word_data hi]
  rw [InPorts.ofWord, data, p.getLsbD_word_control 2, p.getLsbD_word_control 1, p.getLsbD_word_control 0]
  simp only [BitVec.getLsbD_append, BitVec.getLsbD_ofBool]
  rfl

/-- The word on the pins decodes to the token that the ports select. -/
theorem decodeWord_word (p : InPorts) : decodeWord p.word = decodePorts p := by
  rw [decodeWord, InPorts.ofWord_word]

/-- `rst` takes priority over every other port (60_exceptions.md R174). -/
theorem decodePorts_of_rst {p : InPorts} (h : p.rst = true) : decodePorts p = .reset := by
  simp [decodePorts, h]

/-- With `in_valid` low the ports select a token without operand, so `in_data` is not read (30_encoding.md R73). -/
theorem decodePorts_of_not_valid (r e : Bool) (d d' : Byte) :
    decodePorts ⟨r, e, false, d⟩ = decodePorts ⟨r, e, false, d'⟩ := by
  cases r <;> cases e <;> rfl

/-- Settles O2: the decode of a word is the choice the ports make, and that choice reads a field only where R73 lets
it. -/
theorem ignoredFieldsHaveNoEffect : Obligations.IgnoredFieldsHaveNoEffect := by
  unfold Obligations.IgnoredFieldsHaveNoEffect
  simp only [decodeWord_word]
  refine ⟨fun r e v d d' h => ?_, fun e v e' v' d d' => ?_⟩
  · obtain rfl | rfl := h
    · exact decodePorts_of_not_valid r e d d'
    · rw [decodePorts_of_rst rfl, decodePorts_of_rst rfl]
  · rw [decodePorts_of_rst rfl, decodePorts_of_rst rfl]

/-- A word that matches a pattern under a mask has the pattern's bits where the mask is set. -/
theorem getLsbD_of_and_eq {n : Nat} {w mask pattern : BitVec n} (h : w &&& mask = pattern) {i : Nat}
    (hi : mask.getLsbD i = true) : w.getLsbD i = pattern.getLsbD i := by
  rw [← h, BitVec.getLsbD_and, hi, Bool.and_true]

/-- A word whose control bits are those of a pattern decodes as the pattern's control bits say, its low byte the
operand. -/
theorem decodeWord_of_control {w pattern : PortWord} (h : w &&& 0x700#11 = pattern) :
    decodeWord w =
      decodePorts ⟨pattern.getLsbD 10, pattern.getLsbD 9, pattern.getLsbD 8, w.truncate 8⟩ := by
  have data : w.extractLsb' 0 8 = w.truncate 8 := (BitVec.setWidth_eq_extractLsb' (by decide)).symm
  rw [decodeWord, InPorts.ofWord, getLsbD_of_and_eq h (by decide), getLsbD_of_and_eq h (by decide),
    getLsbD_of_and_eq h (by decide), data]

/-- A word with W[10] set is RESET, whatever its other bits (30_encoding.md R72). -/
theorem decodeWord_of_rst {w : PortWord} (h : w &&& 0x400#11 = 0x400#11) : decodeWord w = .reset :=
  decodePorts_of_rst (getLsbD_of_and_eq h (by decide))

/-- Settles O1: row by row, the control bits of the row's pattern select the row's token; the canonical words are
`encode`'s definition. -/
theorem tokenDecodeTable : Obligations.TokenDecodeTable := by
  unfold Obligations.TokenDecodeTable
  exact ⟨fun w => ⟨decodeWord_of_control, decodeWord_of_control, decodeWord_of_control, decodeWord_of_control,
    decodeWord_of_rst⟩, rfl, fun _ => rfl, rfl, fun _ => rfl, rfl⟩

namespace Machine

/-- No phase has one of the codes 0b101 to 0b111 (30_encoding.md R82). -/
theorem Phase.code_le_four (p : Phase) : p.code.toNat ≤ 4 := by
  cases p <;> decide

/-- Settles O8: the five codes are the definition's, and none is above EMIT's. -/
theorem phaseCodes : Obligations.PhaseCodes := by
  unfold Obligations.PhaseCodes
  exact ⟨rfl, rfl, rfl, rfl, rfl, Phase.code_le_four⟩

end Machine

end Sys2Proof
end

section
/-! A chunk delivered as CHUNK ends with its reference result (41_chunk_semantics.md R140, section 2), and the reason
codes the ports then show (30_encoding.md R81). -/

namespace Sys2Proof.Machine

/-- The payload bytes collected so far: the first k payload registers (10_state.md R22, R23). -/
def CoreState.payload (c : CoreState) : List Byte := [c.p0, c.p1, c.p2, c.p3].take c.k.toNat

/-- The reference result of a chunk whose bytes so far left the core as `c` and whose other bytes are `rest`: before the
candidate the search goes on, in CONSUME_TYPE with the pending 0xAA put back; after it the collection goes on, in
STUFF_SKIP one byte further. -/
def CoreState.scanRest (c : CoreState) (rest : List Byte) : Result :=
  match c.phase with
  | .seekSync       => scan rest
  | .consumeType    => scan (Config.sync :: rest)
  | .collectPayload => resultOfCollected (collect rest (4 - c.k.toNat) 0 c.payload)
  | .stuffSkip      => resultOfCollected (collect rest (4 - c.k.toNat) 1 c.payload)
  | .emit           => resultOfCollected (collect rest (4 - c.k.toNat) 0 c.payload)

/-- A collection with bytes missing fails at once when no byte is left. -/
theorem collect_nil_succ (n cursor : Nat) (q : List Byte) : collect [] (n + 1) cursor q = none := by
  simp [collect]

/-- A collection at the first byte takes it, and skips the byte after a 0xAA. -/
theorem collect_cons_zero (b : Byte) (rest : List Byte) (n : Nat) (q : List Byte) :
    collect (b :: rest) (n + 1) 0 q = collect rest n (if b = Config.sync then 1 else 0) (q ++ [b]) := by
  rw [collect, List.getElem?_cons_zero]
  by_cases h : b = Config.sync <;> simp [h, collect_cons_succ]

/-- At the chunk's end the reference has nothing left to read, and its result is the one the phase tells
(40_scan_operations.md R108). -/
theorem CoreState.scanRest_nil {c : CoreState} (hc : c.CountLegal) : c.scanRest [] = c.result := by
  obtain ⟨-, -, collecting, skipping, emitting⟩ := hc
  cases hp : c.phase with
  | seekSync => simp [CoreState.scanRest, CoreState.result, hp, scan, firstCandidate]
  | consumeType => simp [CoreState.scanRest, CoreState.result, hp, scan, firstCandidate]
  | collectPayload =>
    obtain ⟨n, hn⟩ : ∃ n, 4 - c.k.toNat = n + 1 := ⟨3 - c.k.toNat, by have := collecting hp; omega⟩
    simp [CoreState.scanRest, CoreState.result, hp, hn, collect_nil_succ, resultOfCollected]
  | stuffSkip =>
    obtain ⟨n, hn⟩ : ∃ n, 4 - c.k.toNat = n + 1 := ⟨3 - c.k.toNat, by have := skipping hp; omega⟩
    simp [CoreState.scanRest, CoreState.result, hp, hn, collect_nil_succ, resultOfCollected]
  | emit =>
    simp [CoreState.scanRest, CoreState.result, hp, emitting hp, CoreState.payload, collect, resultOfCollected]

/-- A payload byte under a legal count is stored behind the bytes before it (40_scan_operations.md R105). -/
theorem byteInCollectPayload_of_legal {c : CoreState} (b : Byte) (hk : c.k.toNat ≤ 3) :
    ∃ c', byteInCollectPayload b c = some c' ∧ c'.k.toNat = c.k.toNat + 1 ∧ c'.payload = c.payload ++ [b] ∧
      c'.phase = if c.k.toNat = 3 then .emit else if b = Config.sync then .stuffSkip else .collectPayload := by
  obtain ⟨count0, count1, count2, count3, -⟩ := byteInCollectPayload_of_count (c := c) b
  have count : c.k = 0#3 ∨ c.k = 1#3 ∨ c.k = 2#3 ∨ c.k = 3#3 := by
    simp only [← BitVec.toNat_inj, BitVec.toNat_ofNat]
    omega
  obtain h | h | h | h := count
  · exact ⟨_, count0 h, by simp [h], by simp [CoreState.payload, h], by simp [h]⟩
  · exact ⟨_, count1 h, by simp [h], by simp [CoreState.payload, h], by simp [h]⟩
  · exact ⟨_, count2 h, by simp [h], by simp [CoreState.payload, h], by simp [h]⟩
  · exact ⟨_, count3 h, by simp [h], by simp [CoreState.payload, h], by simp [h]⟩

/-- `c'` is the core `c` a byte further: its count is legal, and what the reference has still to do is the same. -/
def CoreState.Advances (c c' : CoreState) (b : Byte) : Prop :=
  c'.CountLegal ∧ ∀ rest, c'.scanRest rest = c.scanRest (b :: rest)

/-- A first byte 0xAA is the pending one, and the search passes over any other (40_scan_operations.md R103). -/
theorem byteInSeekSync_advances {c : CoreState} (b : Byte) (hp : c.phase = .seekSync) (hk : c.k = 0#3) :
    c.Advances (byteInSeekSync b c) b := by
  by_cases h : b = Config.sync
  · exact ⟨by simp [byteInSeekSync, h, hk, CoreState.CountLegal],
      fun rest => by simp [byteInSeekSync, h, hp, CoreState.scanRest]⟩
  · have passed := fun rest => scan_cons_of_map (firstCandidate_cons_of_ne rest h)
    exact ⟨by simp [byteInSeekSync, h, hp, hk, CoreState.CountLegal],
      fun rest => by simp [byteInSeekSync, h, hp, CoreState.scanRest, passed]⟩

/-- Of two 0xAA the later is the pending one; any other byte is the type byte behind it (40_scan_operations.md R104). -/
theorem byteInConsumeType_advances {c : CoreState} (b : Byte) (hp : c.phase = .consumeType) (hk : c.k = 0#3) :
    c.Advances (byteInConsumeType b c) b := by
  by_cases h : b = Config.sync
  · have passed := fun rest => scan_cons_of_map (firstCandidate_sync_sync rest)
    exact ⟨by simp [byteInConsumeType, h, hp, hk, CoreState.CountLegal],
      fun rest => by simp [byteInConsumeType, h, hp, CoreState.scanRest, passed]⟩
  · exact ⟨by simp [byteInConsumeType, h, CoreState.CountLegal],
      fun rest => by simp [byteInConsumeType, h, hp, CoreState.scanRest, scan_sync_type, CoreState.payload]⟩

/-- The collection's next read is the byte stored, and its skip after a 0xAA is the phase STUFF_SKIP
(40_scan_operations.md R105). -/
theorem byteInCollectPayload_advances {c : CoreState} (b : Byte) (hp : c.phase = .collectPayload)
    (hk : c.k.toNat ≤ 3) : ∃ c', byteInCollectPayload b c = some c' ∧ c.Advances c' b := by
  obtain ⟨c', stored, count, payload, phase⟩ := byteInCollectPayload_of_legal b hk
  have before : 4 - c.k.toNat = 4 - (c.k.toNat + 1) + 1 := by omega
  refine ⟨c', stored, ?_⟩
  by_cases last : c.k.toNat = 3
  · have full : c'.k = 4#3 := BitVec.eq_of_toNat_eq (by simp [count, last])
    exact ⟨by simp [CoreState.CountLegal, phase, last, full],
      fun rest => by simp [CoreState.scanRest, hp, payload, phase, last, full, collect_cons_zero, collect]⟩
  · have next_le : c.k.toNat + 1 ≤ 3 := by omega
    by_cases h : b = Config.sync <;>
      exact ⟨by simp [CoreState.CountLegal, phase, last, h, count, next_le],
        fun rest => by simp [CoreState.scanRest, hp, before, payload, phase, last, h, collect_cons_zero, count]⟩

/-- The collection's cursor is past the stuffing byte (40_scan_operations.md R106). -/
theorem byteInStuffSkip_advances {c : CoreState} (b : Byte) (hp : c.phase = .stuffSkip) (hk : c.k.toNat ≤ 3) :
    c.Advances (byteInStuffSkip b c) b :=
  ⟨by simp [byteInStuffSkip, hk, CoreState.CountLegal], fun rest => by
    simp [byteInStuffSkip, hp, CoreState.scanRest, collect_cons_succ b rest _ 0, CoreState.payload]⟩

/-- A collection that has its four bytes reads no more (40_scan_operations.md R107). -/
theorem byteInEmit_advances {c : CoreState} (b : Byte) (hp : c.phase = .emit) (hk : c.k = 4#3) :
    c.Advances (byteInEmit b c) b :=
  ⟨by simp [byteInEmit, hp, hk, CoreState.CountLegal], fun rest => by
    simp [byteInEmit, hp, hk, CoreState.scanRest, collect]⟩

/-- Under a legal count every byte is consumed, in every phase (40_scan_operations.md R102). -/
theorem CoreState.consume_advances {c : CoreState} (b : Byte) (hc : c.CountLegal) :
    ∃ c', c.consume b = some c' ∧ c.Advances c' b := by
  obtain ⟨seeking, consuming, collecting, skipping, emitting⟩ := hc
  obtain ⟨atSeek, atType, atCollect, atSkip, atEmit⟩ := c.consume_of_phase b
  cases hp : c.phase with
  | seekSync => exact ⟨_, atSeek hp, byteInSeekSync_advances b hp (seeking hp)⟩
  | consumeType => exact ⟨_, atType hp, byteInConsumeType_advances b hp (consuming hp)⟩
  | collectPayload => exact atCollect hp ▸ byteInCollectPayload_advances b hp (collecting hp)
  | stuffSkip => exact ⟨_, atSkip hp, byteInStuffSkip_advances b hp (skipping hp).2⟩
  | emit => exact ⟨_, atEmit hp, byteInEmit_advances b hp (emitting hp)⟩

/-- BYTE tokens from a legal state complete, publish nothing, and leave the core with the result the reference gives
for their bytes. -/
theorem runTokens_bytes {s : State} (chunk : List Byte) (applied : s.resetApplied = true)
    (legal : s.core.CountLegal) :
    ∃ u, runTokens (chunk.map Instr.byte) s = .next (u, []) ∧ u.resetApplied = true ∧
      u.core.result = s.core.scanRest chunk := by
  induction chunk generalizing s with
  | nil => exact ⟨s, rfl, applied, (CoreState.scanRest_nil legal).symm⟩
  | cons b rest ih =>
    obtain ⟨c, consumed, legal', same⟩ := CoreState.consume_advances b legal
    obtain ⟨u, run, appliedEnd, result⟩ := ih (s := (s.setCore c).clearValid) applied legal'
    have first := exec_byte_of_consume applied consumed
    exact ⟨u, runTokens_cons_of_next first run, appliedEnd, result.trans (same rest)⟩

/-- CHUNK from a chunk boundary publishes, at its END, the result the reference gives for the chunk. -/
theorem runTokens_chunkTokens {s : State} (chunk : List Byte) (boundary : s.AtBoundary) :
    ∃ u : State, runTokens (chunkTokens chunk) s = .next (u.publish, [scan chunk]) ∧ u.core.result = scan chunk := by
  obtain ⟨applied, cleared⟩ := boundary
  obtain ⟨u, bytes, appliedEnd, result⟩ := runTokens_bytes chunk applied (by rw [cleared]; decide)
  have scanned : u.core.result = scan chunk := by rw [result, cleared]; rfl
  have ends := runTokens_cons_of_next (exec_endChunk_of_applied appliedEnd) (rfl : runTokens [] u.publish = _)
  rw [State.publish_published, scanned] at ends
  exact ⟨u, runTokens_append bytes ends, scanned⟩

/-- The result registers that publish a Decoded result (40_scan_operations.md R108). -/
theorem State.publish_res_of_decoded {s : State} {q0 q1 q2 q3 : Byte}
    (h : s.core.result = .decoded q0 q1 q2 q3) :
    s.publish.res = ResultRegs.ofDecoded (payloadWord q0 q1 q2 q3) := by
  rcases s.publish_cases with ⟨emitting, published⟩ | ⟨r, incomplete, _⟩
  · simp only [CoreState.result, emitting, Result.decoded.injEq] at h
    obtain ⟨rfl, rfl, rfl, rfl⟩ := h
    rw [published, CoreState.word]
  · rw [incomplete] at h
    cases h

/-- The result registers that publish an Incomplete result, whatever the draw (40_scan_operations.md R108). -/
theorem State.publish_res_of_incomplete {s : State} {r : IncompleteReason} (h : s.core.result = .incomplete r) :
    ∃ draw, s.publish.res = ResultRegs.ofIncomplete r draw := by
  rcases s.publish_cases with ⟨emitting, _⟩ | ⟨r', incomplete, published⟩
  · simp [CoreState.result, emitting] at h
  · obtain rfl : r' = r := by simpa [incomplete] using h
    exact ⟨_, by rw [published]⟩

/-- "No step ever publishes this code" (30_encoding.md R81). -/
theorem State.publish_reason_code_ne_none (s : State) : s.publish.outPorts.resReason ≠ 0b00#2 := by
  cases h : s.core.result with
  | decoded q0 q1 q2 q3 =>
    simp [State.publish_res_of_decoded h, Reason.code]
  | incomplete r =>
    obtain ⟨draw, published⟩ := State.publish_res_of_incomplete h
    cases r <;> simp [published, IncompleteReason.toReason, Reason.code]

/-- A step that publishes shows a reason other than NONE: it is END or BYTE_END, and the others clear `res_valid`. -/
theorem exec_reason_code_ne_none {i : Instr} {s t : State} (h : exec i s = .next t)
    (publishes : t.outPorts.resValid = 1#1) : t.outPorts.resReason ≠ 0b00#2 := by
  rcases exec_next_cases h with ⟨_, _, rfl⟩ | ⟨_, _, _, _, _, rfl⟩ | ⟨_, _, rfl⟩ | ⟨_, c, _, _, _, rfl⟩ | ⟨_, rfl⟩
  · simp at publishes
  · simp at publishes
  · exact s.publish_reason_code_ne_none
  · exact (s.setCore c).publish_reason_code_ne_none
  · simp at publishes

/-- The search fails exactly in a chunk without a sync candidate (41_chunk_semantics.md R141). -/
theorem firstCandidate_eq_none_iff (chunk : List Byte) :
    firstCandidate chunk = none ↔ ∀ i, isCandidate chunk i = false := by
  induction chunk with
  | nil => simp [firstCandidate, isCandidate]
  | cons a rest ih =>
    have shift : ∀ i, isCandidate (a :: rest) (i + 1) = isCandidate rest i := fun _ => rfl
    rw [← Nat.and_forall_add_one]
    simp only [shift, ← ih]
    cases rest with
    | nil => simp [firstCandidate, isCandidate]
    | cons b rest =>
      by_cases here : a = Config.sync ∧ b ≠ Config.sync
      · simp [firstCandidate, isCandidate, here]
      · simp [firstCandidate, isCandidate, here]
        tauto

/-- A chunk without a sync candidate is Incomplete(NO_SYNC) (41_chunk_semantics.md R140, R145). -/
theorem scan_of_no_candidate {chunk : List Byte} (h : ∀ i, isCandidate chunk i = false) :
    scan chunk = .incomplete .noSync := by
  simp [scan, (firstCandidate_eq_none_iff chunk).mpr h]

/-- Collected bytes give a Decoded result or SHORT_FRAME, never NO_SYNC (41_chunk_semantics.md R144). -/
theorem resultOfCollected_cases (q : Option (List Byte)) :
    (∃ q0 q1 q2 q3, resultOfCollected q = .decoded q0 q1 q2 q3) ∨
      resultOfCollected q = .incomplete .shortFrame := by
  unfold resultOfCollected
  split
  · exact .inl ⟨_, _, _, _, rfl⟩
  · exact .inr rfl

/-- A chunk with a sync candidate that is not decoded is Incomplete(SHORT_FRAME) (41_chunk_semantics.md R144). -/
theorem scan_of_candidate_of_not_decoded {chunk : List Byte} (candidate : ∃ i, isCandidate chunk i = true)
    (notDecoded : ∀ q0 q1 q2 q3, scan chunk ≠ .decoded q0 q1 q2 q3) : scan chunk = .incomplete .shortFrame := by
  obtain ⟨i, hi⟩ := candidate
  cases found : firstCandidate chunk with
  | none => simp [(firstCandidate_eq_none_iff chunk).mp found i] at hi
  | some j =>
    have scanned : scan chunk = resultOfCollected (collect chunk Config.payloadLen (j + 2) []) := by
      simp [scan, found]
    rw [scanned] at notDecoded ⊢
    rcases resultOfCollected_cases (collect chunk Config.payloadLen (j + 2) []) with ⟨_, _, _, _, decoded⟩ | short
    · exact absurd decoded (notDecoded _ _ _ _)
    · exact short

/-- The ports after an Incomplete result is published. -/
theorem State.publish_outPorts_of_incomplete {s : State} {r : IncompleteReason}
    (h : s.core.result = .incomplete r) :
    s.publish.outPorts.resReason = r.toReason.code ∧ s.publish.outPorts.resDecoded = 0#1 := by
  obtain ⟨draw, published⟩ := State.publish_res_of_incomplete h
  simp [published]

/-- Settles O55: the codes are the definition's; only END and BYTE_END publish, and never NONE; and CHUNK publishes the
reference result of its chunk, whose three forms are the table's other three rows. -/
theorem reasonCodeTable : Obligations.ReasonCodeTable := by
  unfold Obligations.ReasonCodeTable
  refine ⟨⟨rfl, rfl, rfl, rfl⟩, fun s => ⟨s.applyReset, exec_reset s, rfl, rfl⟩,
    fun _ _ _ => exec_reason_code_ne_none, fun chunk s boundary => ?_⟩
  obtain ⟨u, run, result⟩ := runTokens_chunkTokens chunk boundary
  refine ⟨u.publish, _, run, by simp, fun q0 q1 q2 q3 decoded => ?_, fun noCandidate => ?_,
    fun candidate notDecoded => ?_⟩
  · simp [State.publish_res_of_decoded (result.trans decoded), Reason.code, payloadWord]
  · exact State.publish_outPorts_of_incomplete (result.trans (scan_of_no_candidate noCandidate))
  · exact State.publish_outPorts_of_incomplete (result.trans (scan_of_candidate_of_not_decoded candidate notDecoded))

end Sys2Proof.Machine
end

section
/-! One rule per token (40_scan_operations.md R101 to R110). -/

namespace Sys2Proof.Machine

/-! ### BYTE, phase by phase -/

/-- SEEK_SYNC's sub-rule writes the phase alone (40_scan_operations.md R103). -/
theorem byteInSeekSync_eq {c : CoreState} (b : Byte) (hp : c.phase = .seekSync) :
    byteInSeekSync b c = { c with phase := if b = Config.sync then .consumeType else .seekSync } := by
  by_cases h : b = Config.sync
  · simp [byteInSeekSync, h]
  · simp [byteInSeekSync, h, ← hp]

/-- The count's four values with a payload register (10_state.md R22). -/
theorem CoreState.count_cases {c : CoreState} (hk : c.k.toNat ≤ 3) :
    c.k = 0#3 ∨ c.k = 1#3 ∨ c.k = 2#3 ∨ c.k = 3#3 := by
  simp only [← BitVec.toNat_inj, BitVec.toNat_ofNat]
  omega

/-- COLLECT_PAYLOAD's sub-rule, register by register: p(k) is selected by the count (40_scan_operations.md R105). -/
theorem byteInCollectPayload_eq {c : CoreState} (b : Byte) (hk : c.k.toNat ≤ 3) :
    byteInCollectPayload b c = some {
      phase := if c.k.toNat + 1 = 4 then .emit else if b = Config.sync then .stuffSkip else .collectPayload
      k := BitVec.ofNat 3 (c.k.toNat + 1)
      p0 := if c.k.toNat = 0 then b else c.p0
      p1 := if c.k.toNat = 1 then b else c.p1
      p2 := if c.k.toNat = 2 then b else c.p2
      p3 := if c.k.toNat = 3 then b else c.p3 } := by
  obtain ⟨count0, count1, count2, count3, -⟩ := byteInCollectPayload_of_count (c := c) b
  obtain h | h | h | h := CoreState.count_cases hk
  · simp [count0 h, h]
  · simp [count1 h, h]
  · simp [count2 h, h]
  · simp [count3 h, h]

/-! ### The chunk's end -/

/-- Outside EMIT the one result is Incomplete, and takes a draw (40_scan_operations.md R108, R100). -/
theorem State.publish_of_incomplete {s : State} {r : IncompleteReason} (h : s.core.result = .incomplete r) :
    s.publish = { s with
      core := CoreState.cleared
      res := ResultRegs.ofIncomplete r (Config.payloadDraw s.payloadDraws)
      payloadDraws := s.payloadDraws + 1 } := by
  rcases s.publish_cases with ⟨emitting, _⟩ | ⟨r', incomplete, published⟩
  · simp [CoreState.result, emitting] at h
  · obtain rfl : r' = r := by simpa [incomplete] using h
    exact published

/-- The state an Incomplete result leaves, and the result it shows. -/
theorem State.publish_and_published_of_incomplete {s : State} {r : IncompleteReason}
    (h : s.core.result = .incomplete r) :
    s.publish = { s with
      core := CoreState.cleared
      res := ResultRegs.ofIncomplete r (Config.payloadDraw s.payloadDraws)
      payloadDraws := s.payloadDraws + 1 } ∧
    s.publish.published = some (.incomplete r) :=
  ⟨State.publish_of_incomplete h, s.publish_published.trans (congrArg some h)⟩

/-- END reads no result register (10_state.md R28), so the fall of `res_valid` before it is not seen. -/
theorem State.publish_clearValid (s : State) : s.clearValid.publish = s.publish := by
  cases h : s.core.result with
  | decoded q0 q1 q2 q3 => simp [State.publish, State.clearValid, h]
  | incomplete r => simp [State.publish, State.clearValid, h]

/-- The steps on which BYTE completes (40_scan_operations.md R102). -/
theorem exec_byte_next {s u : State} {b : Byte} (h : exec (.byte b) s = .next u) :
    ∃ c, s.resetApplied = true ∧ s.core.consume b = some c ∧ u = (s.setCore c).clearValid := by
  rcases exec_next_cases h with
    ⟨⟨⟩, _⟩ | ⟨_, c, ⟨⟩, applied, consumed, rfl⟩ | ⟨⟨⟩, _⟩ | ⟨_, _, ⟨⟩, _⟩ | ⟨⟨⟩, _⟩
  exact ⟨c, applied, consumed, rfl⟩

/-! ### The statements, in a namespace of their own: the sub-rules' definitions have the same names -/

namespace TokenRules

/-- Settles O13: IDLE is the fall of `res_valid`. -/
theorem idleClearsValidOnly : Obligations.IdleClearsValidOnly := by
  unfold Obligations.IdleClearsValidOnly
  intro s applied
  exact exec_idle_of_applied applied

/-- Settles O14: the sub-rule writes the phase alone, and BYTE adds the fall of `res_valid`. -/
theorem byteInSeekSync : Obligations.ByteInSeekSync := by
  unfold Obligations.ByteInSeekSync
  intro s b applied seeking
  obtain ⟨consumed, -⟩ := s.core.consume_of_phase b
  exact exec_byte_of_consume applied ((consumed seeking).trans (congrArg some (byteInSeekSync_eq b seeking)))

/-- Settles O15: the statement's core is the sub-rule's definition. -/
theorem byteInConsumeType : Obligations.ByteInConsumeType := by
  unfold Obligations.ByteInConsumeType
  intro s b applied atType
  obtain ⟨-, consumed, -⟩ := s.core.consume_of_phase b
  exact exec_byte_of_consume applied (consumed atType)

/-- Settles O16: the sub-rule's closed form, over the four values of the count. -/
theorem byteInCollectPayload : Obligations.ByteInCollectPayload := by
  unfold Obligations.ByteInCollectPayload
  intro s b applied collecting count
  obtain ⟨-, -, consumed, -⟩ := s.core.consume_of_phase b
  exact exec_byte_of_consume applied ((consumed collecting).trans (byteInCollectPayload_eq b count))

/-- Settles O17: the sub-rule writes the phase alone. -/
theorem byteInStuffSkip : Obligations.ByteInStuffSkip := by
  unfold Obligations.ByteInStuffSkip
  intro s b applied skipping
  obtain ⟨-, -, -, consumed, -⟩ := s.core.consume_of_phase b
  exact exec_byte_of_consume applied (consumed skipping)

/-- Settles O18: the sub-rule gives back the core it was given. -/
theorem byteInEmit : Obligations.ByteInEmit := by
  unfold Obligations.ByteInEmit
  intro s b applied emitting
  obtain ⟨-, -, -, -, consumed⟩ := s.core.consume_of_phase b
  exact exec_byte_of_consume applied (consumed emitting)

/-- Settles O19: the phase selects the result and decides the statement's conditions; the draw is the model's next
one. -/
theorem endPublishesTheChunksResult : Obligations.EndPublishesTheChunksResult := by
  unfold Obligations.EndPublishesTheChunksResult
  intro s applied
  refine ⟨s.publish, Config.payloadDraw s.payloadDraws, s.payloadDraws + 1, exec_endChunk_of_applied applied, ?_⟩
  cases phase : s.core.phase with
  | emit =>
    have result : s.core.result = .decoded s.core.p0 s.core.p1 s.core.p2 s.core.p3 := by simp [CoreState.result, phase]
    exact ⟨State.publish_of_emit phase, s.publish_published.trans (congrArg some result)⟩
  | seekSync => exact State.publish_and_published_of_incomplete (r := .noSync) (by simp [CoreState.result, phase])
  | consumeType => exact State.publish_and_published_of_incomplete (r := .noSync) (by simp [CoreState.result, phase])
  | collectPayload =>
    exact State.publish_and_published_of_incomplete (r := .shortFrame) (by simp [CoreState.result, phase])
  | stuffSkip =>
    exact State.publish_and_published_of_incomplete (r := .shortFrame) (by simp [CoreState.result, phase])

/-- Settles O20: both publish the core that the byte left; END does not see the `res_valid` that BYTE cleared. -/
theorem byteEndIsByteThenEnd : Obligations.ByteEndIsByteThenEnd := by
  unfold Obligations.ByteEndIsByteThenEnd
  intro s u b h
  obtain ⟨c, applied, consumed, rfl⟩ := exec_byte_next h
  have applied' : (s.setCore c).clearValid.resetApplied = true := applied
  rw [exec_byteEnd_of_consume applied consumed, exec_endChunk_of_applied applied', State.publish_clearValid]

/-- Settles O22: the cleared register groups hold the listed values. -/
theorem resetWritesEveryRegister : Obligations.ResetWritesEveryRegister := by
  unfold Obligations.ResetWritesEveryRegister
  intro s
  exact exec_reset s

end TokenRules

end Sys2Proof.Machine
end

section
/-! The sync search (41_chunk_semantics.md R140, R141), and a chunk in which it finds nothing (R145). -/

namespace Sys2Proof.Machine

/-- A sync candidate is a 0xAA with another byte behind it, both within the chunk (41_chunk_semantics.md R141). -/
theorem isCandidate_iff (chunk : List Byte) (i : Nat) :
    isCandidate chunk i = true ↔ chunk[i]? = some 0xAA#8 ∧ ∃ b, chunk[i + 1]? = some b ∧ b ≠ 0xAA#8 := by
  cases first : chunk[i]? with
  | none => simp [isCandidate, first]
  | some a =>
    cases second : chunk[i + 1]? with
    | none => simp [isCandidate, first, second]
    | some b => simp [isCandidate, first, second, Config.sync]

/-- The search stops at the first byte if that is a candidate, and goes on behind it otherwise. -/
theorem firstCandidate_cons (a : Byte) (rest : List Byte) :
    firstCandidate (a :: rest) =
      if isCandidate (a :: rest) 0 = true then some 0 else (firstCandidate rest).map (· + 1) := by
  cases rest with
  | nil => simp [firstCandidate, isCandidate]
  | cons b rest => simp [firstCandidate, isCandidate]

/-- The search finds the least candidate (41_chunk_semantics.md R140). -/
theorem firstCandidate_eq_some_iff (chunk : List Byte) (i : Nat) :
    firstCandidate chunk = some i ↔ isCandidate chunk i = true ∧ ∀ j < i, ¬isCandidate chunk j = true := by
  induction chunk generalizing i with
  | nil => simp [firstCandidate, isCandidate]
  | cons a rest ih =>
    have shift : ∀ j, isCandidate (a :: rest) (j + 1) = isCandidate rest j := fun _ => rfl
    rw [firstCandidate_cons]
    by_cases here : isCandidate (a :: rest) 0 = true
    · cases i with
      | zero => simp [here]
      | succ i => rw [Nat.forall_lt_succ_left]; simp [here]
    · cases i with
      | zero => simp [here]
      | succ i => rw [Nat.forall_lt_succ_left]; simp [here, shift, ih]

/-- A candidate's two bytes are within the chunk. -/
theorem lt_length_of_isCandidate {chunk : List Byte} {i : Nat} (h : isCandidate chunk i = true) :
    i + 1 < chunk.length := by
  obtain ⟨-, b, second, -⟩ := (isCandidate_iff chunk i).mp h
  exact (List.getElem?_eq_some_iff.mp second).1

/-- Whether an index is a candidate is told by the byte there and the next one: what follows may be any. -/
theorem isCandidate_take_append {chunk : List Byte} {j n : Nat} (rest : List Byte) (inside : j + 1 < n)
    (fits : n ≤ chunk.length) : isCandidate (chunk.take n ++ rest) j = isCandidate chunk j := by
  have kept : ∀ m < n, (chunk.take n ++ rest)[m]? = chunk[m]? := fun m hm => by
    rw [List.getElem?_append_left (by simp; omega), List.getElem?_take_of_lt hm]
  simp only [isCandidate, kept j (by omega), kept (j + 1) inside]

/-- The search does not look at what follows the candidate (41_chunk_semantics.md R141). -/
theorem firstCandidate_take_append {chunk : List Byte} {i : Nat} (rest : List Byte)
    (h : firstCandidate chunk = some i) : firstCandidate (chunk.take (i + 2) ++ rest) = some i := by
  obtain ⟨found, least⟩ := (firstCandidate_eq_some_iff chunk i).mp h
  have same : ∀ j ≤ i, isCandidate (chunk.take (i + 2) ++ rest) j = isCandidate chunk j := fun j hj =>
    isCandidate_take_append rest (by omega) (lt_length_of_isCandidate found)
  exact (firstCandidate_eq_some_iff _ i).mpr
    ⟨(same i le_rfl).trans found, fun j hj => by rw [same j hj.le]; exact least j hj⟩

/-- Settles O40: the search finds the least candidate, and keeps it whatever follows. -/
theorem firstCandidateIsTheLeast : Obligations.FirstCandidateIsTheLeast := by
  unfold Obligations.FirstCandidateIsTheLeast
  simp only [← and_assoc, ← isCandidate_iff]
  exact ⟨firstCandidate_eq_some_iff, fun _ rest _ => firstCandidate_take_append rest⟩

/-- Settles O45: CHUNK publishes the chunk's scan, which without a candidate is NO_SYNC; a candidate takes two bytes. -/
theorem chunkWithoutSyncIsIncomplete : Obligations.ChunkWithoutSyncIsIncomplete := by
  unfold Obligations.ChunkWithoutSyncIsIncomplete
  refine ⟨fun chunk s boundary noCandidate => ?_, fun chunk i short => ?_⟩
  · have noSync := scan_of_no_candidate noCandidate
    obtain ⟨u, run, result⟩ := runTokens_chunkTokens chunk boundary
    obtain ⟨reason, decoded⟩ := State.publish_outPorts_of_incomplete (result.trans noSync)
    exact ⟨u.publish, noSync ▸ run, decoded, reason⟩
  · refine Bool.eq_false_iff.mpr fun candidate => ?_
    have := lt_length_of_isCandidate candidate
    omega

end Sys2Proof.Machine
end

section
/-! The block has no exceptions (60_exceptions.md R170). -/

namespace Sys2Proof.Machine

/-- After RESET a legal count is all that a token's completion needs: IDLE, END and RESET do not read it, and under it
a byte is always consumed (40_scan_operations.md R102). -/
theorem exec_completes_of_countLegal {s : State} (i : Instr) (applied : s.resetApplied = true)
    (legal : s.core.CountLegal) : ∃ t, exec i s = .next t := by
  cases i with
  | idle => exact ⟨_, exec_idle_of_applied applied⟩
  | byte b =>
    obtain ⟨c, consumed, -⟩ := CoreState.consume_advances b legal
    exact ⟨_, exec_byte_of_consume applied consumed⟩
  | endChunk => exact ⟨_, exec_endChunk_of_applied applied⟩
  | byteEnd b =>
    obtain ⟨c, consumed, -⟩ := CoreState.consume_advances b legal
    exact ⟨_, exec_byteEnd_of_consume applied consumed⟩
  | reset => exact ⟨_, exec_reset s⟩

/-- Settles O27: of the invariant, only RESET's having been applied and the legal count are needed. -/
theorem everyTokenCompletes : Obligations.EveryTokenCompletes := by
  unfold Obligations.EveryTokenCompletes
  intro i s ⟨applied, ⟨countLegal, _⟩, _⟩
  exact exec_completes_of_countLegal i applied countLegal

end Sys2Proof.Machine
end

section
/-! Reset, the launch premise, the chunk's end and the open chunk (70_reset_and_hazards.md R200, R202, R203, R211). -/

namespace Sys2Proof.Machine

/-! ### What a step publishes -/

/-- A step that lowers `res_valid` publishes nothing (10_state.md R25). -/
@[simp] theorem State.clearValid_published (s : State) : s.clearValid.published = none := rfl

/-- RESET publishes nothing (40_scan_operations.md R110). -/
@[simp] theorem State.applyReset_published (s : State) : s.applyReset.published = none := rfl

/-- The steps on which END and BYTE_END complete: some core is published, the one that stood or the one that the byte
left (40_scan_operations.md R108, R109). -/
theorem exec_chunkEnd_next {i : Instr} {s t : State} (ending : i = .endChunk ∨ ∃ b, i = .byteEnd b)
    (h : exec i s = .next t) : ∃ u : State, t = u.publish := by
  rcases exec_next_cases h with ⟨rfl, _⟩ | ⟨b, c, rfl, _⟩ | ⟨_, _, published⟩ | ⟨b, c, _, _, _, published⟩ | ⟨rfl, _⟩
  · simp at ending
  · simp at ending
  · exact ⟨s, published⟩
  · exact ⟨s.setCore c, published⟩
  · simp at ending

/-- No other token publishes: IDLE and BYTE lower `res_valid`, and RESET clears it (10_state.md R25). -/
theorem exec_published_of_not_chunkEnd {i : Instr} {s t : State} (notEnd : i ≠ .endChunk)
    (notByteEnd : ∀ b, i ≠ .byteEnd b) (h : exec i s = .next t) : t.published = none := by
  rcases exec_next_cases h with ⟨_, _, rfl⟩ | ⟨_, c, _, _, _, rfl⟩ | ⟨ended, _⟩ | ⟨b, _, ended, _⟩ | ⟨_, rfl⟩
  · exact s.clearValid_published
  · exact (s.setCore c).clearValid_published
  · exact absurd ended notEnd
  · exact absurd ended (notByteEnd b)
  · exact s.applyReset_published

/-! ### One token held over many edges -/

/-- A token that changes its state no more, and shows no result, may be repeated. -/
theorem runTokens_replicate_of_stays {i : Instr} {t : State} (stays : exec i t = .next t)
    (silent : t.published = none) (n : Nat) : runTokens (List.replicate n i) t = .next (t, []) := by
  induction n with
  | zero => rfl
  | succ n ih => simpa [List.replicate_succ, silent] using runTokens_cons_of_next stays ih

/-- If a token does its whole work at its first edge, holding it for more edges has the effect of one. -/
theorem runTokens_replicate_succ_of_settles {i : Instr} {s t : State} (first : exec i s = .next t)
    (stays : exec i t = .next t) (silent : t.published = none) (n : Nat) :
    runTokens (List.replicate (n + 1) i) s = .next (t, []) := by
  simpa [List.replicate_succ, silent] using
    runTokens_cons_of_next first (runTokens_replicate_of_stays stays silent n)

/-- A second RESET finds every register at its reset value. -/
theorem exec_reset_applyReset (s : State) : exec .reset s.applyReset = .next s.applyReset := rfl

/-- A second IDLE finds `res_valid` low. -/
theorem exec_idle_clearValid {s : State} (applied : s.resetApplied = true) :
    exec .idle s.clearValid = .next s.clearValid :=
  exec_idle_of_applied (s := s.clearValid) applied

/-- RESET at several edges (70_reset_and_hazards.md R200). -/
theorem runTokens_replicate_reset (s : State) (n : Nat) :
    runTokens (List.replicate (n + 1) .reset) s = .next (s.applyReset, []) :=
  runTokens_replicate_succ_of_settles (exec_reset s) (exec_reset_applyReset s) s.applyReset_published n

/-- IDLE at any number of edges leaves the core, and no result (70_reset_and_hazards.md R211). -/
theorem runTokens_replicate_idle {s : State} (applied : s.resetApplied = true) (n : Nat) :
    ∃ t, runTokens (List.replicate n .idle) s = .next (t, []) ∧ t.core = s.core := by
  cases n with
  | zero => exact ⟨s, rfl, rfl⟩
  | succ n =>
    have run := runTokens_replicate_succ_of_settles (exec_idle_of_applied applied) (exec_idle_clearValid applied)
      s.clearValid_published n
    exact ⟨s.clearValid, run, s.clearValid_core⟩

/-- A run without END and BYTE_END gives no result (70_reset_and_hazards.md R211). -/
theorem runTokens_results_of_not_chunkEnd {ts : List Instr} {s t : State} {rs : List Result}
    (noEnd : ∀ i ∈ ts, i ≠ .endChunk ∧ ∀ b, i ≠ .byteEnd b) (h : runTokens ts s = .next (t, rs)) : rs = [] := by
  induction ts generalizing s rs with
  | nil =>
    cases h
    rfl
  | cons i ts ih =>
    obtain ⟨⟨notEnd, notByteEnd⟩, noEndAfter⟩ := List.forall_mem_cons.mp noEnd
    obtain ⟨s1, rs1, first, rest, rfl⟩ := runTokens_cons_next h
    simp [exec_published_of_not_chunkEnd notEnd notByteEnd first, ih noEndAfter rest]

/-! ### The launch premise -/

/-- The stop of every token but RESET before the first RESET, whatever the registers hold (70_reset_and_hazards.md
R203). -/
theorem exec_of_not_applied {i : Instr} {s : State} (notApplied : s.resetApplied = false) (notReset : i ≠ .reset) :
    exec i s = .refused .beforeReset := by
  cases i with
  | idle => exact afterReset_of_not_applied notApplied _
  | byte b => exact afterReset_of_not_applied notApplied _
  | endChunk => exact afterReset_of_not_applied notApplied _
  | byteEnd b => exact afterReset_of_not_applied notApplied _
  | reset => exact absurd rfl notReset

/-! ### The statements -/

/-- Settles O24: a word with `rst` high is RESET whatever its other pins, and a second RESET changes nothing. -/
theorem resetHeldHasTheEffectOfOneEdge : Obligations.ResetHeldHasTheEffectOfOneEdge := by
  unfold Obligations.ResetHeldHasTheEffectOfOneEdge
  intro p s n high
  have token : decodeWord p.word = .reset := (decodeWord_word p).trans (decodePorts_of_rst high)
  rw [token]
  exact ⟨s.applyReset, exec_reset s, s.applyReset_core, s.applyReset_res, runTokens_replicate_reset s n⟩

/-- Settles O25: RESET alone stands outside the launch premise. -/
theorem tokenBeforeResetIsRefused : Obligations.TokenBeforeResetIsRefused := by
  unfold Obligations.TokenBeforeResetIsRefused
  intro s notApplied
  exact ⟨fun _ => exec_of_not_applied notApplied, s.applyReset, exec_reset s, s.applyReset_resetApplied⟩

/-- Settles O31: both tokens end in `State.publish`, which clears the core and shows the result of the core as it
stood. -/
theorem chunkEndResetsTheCore : Obligations.ChunkEndResetsTheCore := by
  unfold Obligations.ChunkEndResetsTheCore
  intro i s t ending h
  obtain ⟨u, rfl⟩ := exec_chunkEnd_next ending h
  exact ⟨u.publish_core, u.publish_valid, u.core.result, u.publish_published⟩

/-- Settles O46: after its first edge IDLE changes nothing, and only END and BYTE_END publish. -/
theorem openChunkWaitsWithoutTimeout : Obligations.OpenChunkWaitsWithoutTimeout := by
  unfold Obligations.OpenChunkWaitsWithoutTimeout
  exact ⟨fun n _ applied => runTokens_replicate_idle applied n,
    fun _ _ _ _ => runTokens_results_of_not_chunkEnd⟩

end Sys2Proof.Machine
end

section
/-! Words and tokens (30_encoding.md section 2), and one clock edge (section 7). -/

namespace Sys2Proof

/-! ### Words and ports -/

/-- A word is put together again from the ports it stands for (30_encoding.md R71). -/
theorem InPorts.word_ofWord (w : PortWord) : (InPorts.ofWord w).word = w := by
  apply BitVec.eq_of_getLsbD_eq
  intro i hi
  by_cases data : i < 8
  · simp [InPorts.getLsbD_word_data _ data, InPorts.ofWord, data]
  · obtain ⟨j, rfl⟩ := Nat.exists_eq_add_of_le' (Nat.le_of_not_lt data)
    have control : j = 0 ∨ j = 1 ∨ j = 2 := by omega
    rw [InPorts.getLsbD_word_control]
    simp only [BitVec.getLsbD_append, BitVec.getLsbD_ofBool]
    obtain rfl | rfl | rfl := control <;> rfl

/-- The mask 0x700 keeps `rst`, `in_end` and `in_valid` and clears `in_data` (30_encoding.md R71, R72). -/
theorem InPorts.word_and_control (p : InPorts) : p.word &&& 0x700#11 = { p with inData := 0#8 }.word := by
  have mask : 0x700#11 = BitVec.allOnes 3 ++ 0#8 := rfl
  rw [mask, InPorts.word, BitVec.and_append, BitVec.and_allOnes, BitVec.and_zero]
  rfl

/-- Different port values have different words. -/
theorem InPorts.word_inj {p q : InPorts} : p.word = q.word ↔ p = q :=
  ⟨fun h => by rw [← p.ofWord_word, h, q.ofWord_word], fun h => h ▸ rfl⟩

/-- A word's control bits are one of the eight settings of `rst`, `in_end` and `in_valid`. -/
theorem PortWord.exists_control (w : PortWord) : ∃ r e v, w &&& 0x700#11 = (InPorts.mk r e v 0#8).word :=
  ⟨_, _, _, (congrArg (· &&& 0x700#11) (InPorts.word_ofWord w).symm).trans (InPorts.word_and_control _)⟩

/-! ### The encoder on the ports -/

/-- The canonical port values of a token: every ignored input low (30_encoding.md R72). -/
def Instr.ports (i : Instr) : InPorts :=
  match i with
  | .idle      => ⟨false, false, false, 0#8⟩
  | .byte b    => ⟨false, false, true, b⟩
  | .endChunk  => ⟨false, true, false, 0#8⟩
  | .byteEnd b => ⟨false, true, true, b⟩
  | .reset     => ⟨true, false, false, 0#8⟩

/-- A byte joined to a word with `in_data` zero is that word with the byte as its `in_data`. -/
theorem InPorts.word_or_zeroExtend (p : InPorts) (b : Byte) (low : p.inData = 0#8) :
    p.word ||| b.zeroExtend 11 = { p with inData := b }.word := by
  have widened : b.zeroExtend 11 = 0#3 ++ b := BitVec.setWidth_eq_append (by decide)
  rw [widened, InPorts.word, low, BitVec.or_append, BitVec.or_zero, BitVec.zero_or]
  rfl

/-- The encoder drives the canonical port values. -/
theorem encode_eq_word (i : Instr) : encode i = i.ports.word := by
  cases i with
  | idle => rfl
  | byte b => exact InPorts.word_or_zeroExtend ⟨false, false, true, 0#8⟩ b rfl
  | endChunk => rfl
  | byteEnd b => exact InPorts.word_or_zeroExtend ⟨false, true, true, 0#8⟩ b rfl
  | reset => rfl

/-- The canonical port values select their token. -/
theorem decodePorts_ports (i : Instr) : decodePorts i.ports = i := by
  cases i <;> rfl

/-- Decoding takes back the encoder's word. -/
theorem decodeWord_encode (i : Instr) : decodeWord (encode i) = i := by
  rw [encode_eq_word, decodeWord_word, decodePorts_ports]

/-- The canonical word of the token that some ports select, by the ports that count (30_encoding.md R72). -/
theorem encode_decodePorts (p : InPorts) :
    encode (decodePorts p) = if p.rst then 0x400#11 else if p.inValid then p.word else p.word &&& 0x700#11 := by
  rw [encode_eq_word, p.word_and_control]
  obtain ⟨r, e, v, d⟩ := p
  cases r with
  | true =>
    rw [decodePorts_of_rst rfl]
    rfl
  | false => cases e <;> cases v <;> rfl

/-- The same of a word: of the bits that R72 ignores, none is kept. -/
theorem encode_decodeWord (w : PortWord) :
    encode (decodeWord w) = if w.getLsbD 10 then 0x400#11 else if w.getLsbD 8 then w else w &&& 0x700#11 := by
  have h := encode_decodePorts (InPorts.ofWord w)
  rwa [InPorts.word_ofWord] at h

/-- With `in_data` zero, clearing it changes nothing; and only then. -/
theorem PortWord.and_control_eq_self_iff (w : PortWord) : w &&& 0x700#11 = w ↔ w.extractLsb' 0 8 = 0#8 := by
  conv_lhs => rw [← InPorts.word_ofWord w, InPorts.word_and_control, InPorts.word_inj]
  simp [InPorts.ofWord, eq_comm]

/-- Every row's mask is within the control bits (30_encoding.md R72). -/
theorem TokenRow.matchesWord_and_control {row : TokenRow} (inTable : row ∈ tokenRows) (w : PortWord) :
    row.matchesWord w = row.matchesWord (w &&& 0x700#11) := by
  have mask : ∀ row ∈ tokenRows, 0x700#11 &&& row.mask = row.mask := by decide
  rw [TokenRow.matchesWord, TokenRow.matchesWord, BitVec.and_assoc, mask row inTable]

/-- A token's name does not depend on `in_data` (30_encoding.md R73). -/
theorem decodeWord_and_control_mnemonic (w : PortWord) :
    (decodeWord (w &&& 0x700#11)).mnemonic = (decodeWord w).mnemonic := by
  rw [← InPorts.word_ofWord w, InPorts.word_and_control, decodeWord_word, decodeWord_word]
  obtain ⟨r, e, v, d⟩ := InPorts.ofWord w
  cases r <;> cases e <;> cases v <;> rfl

/-! ### Numbers read as words -/

/-- A number of at least eleven bits that a word stands for is read as that word (30_encoding.md R71). -/
theorem portWordOfNat_toNat {nbits : Nat} (wide : 11 ≤ nbits) (w : PortWord) :
    portWordOfNat (w.toNat % 2 ^ nbits) = .ok w := by
  have fits : w.toNat < 2 ^ nbits := w.isLt.trans_le (Nat.pow_le_pow_right (by decide) wide)
  rw [Nat.mod_eq_of_lt fits, portWordOfNat, if_pos w.isLt, BitVec.ofNat_toNat, BitVec.setWidth_eq]

/-- The token of a table word is that of the port-cycle word it is read as. -/
theorem decodeTableWord_eq_some_iff (nbits n : Nat) (i : Instr) :
    decodeTableWord nbits n = some i ↔ ∃ w, portWordOfNat (n % 2 ^ nbits) = .ok w ∧ decodeWord w = i := by
  unfold decodeTableWord decodeNat
  cases portWordOfNat (n % 2 ^ nbits) with
  | ok w => simp [Except.toOption]
  | error e => simp [Except.toOption]

/-! ### The statements -/

/-- Settles O5: the canonical port values select the token they were made from, and eleven bits fit in sixteen. -/
theorem decodeEncodeRoundTrip : Obligations.DecodeEncodeRoundTrip := by
  unfold Obligations.DecodeEncodeRoundTrip
  intro i _
  exact ⟨decodeWord_encode i,
    (decodeTableWord_eq_some_iff _ _ _).mpr ⟨_, portWordOfNat_toNat (by decide) _, decodeWord_encode i⟩⟩

/-- Settles O6: the word of a decoded token by the ports that count; what it may change is what a canonical word has
cleared. -/
theorem encodeDecodeCanonical : Obligations.EncodeDecodeCanonical := by
  unfold Obligations.EncodeDecodeCanonical
  intro w
  refine ⟨encode_decodeWord w, ?_⟩
  rw [encode_decodeWord, PortWord.canonical]
  cases w.getLsbD 10 with
  | true => exact beq_iff_eq.trans eq_comm
  | false =>
    cases w.getLsbD 8 with
    | true => simp
    | false => simp [PortWord.and_control_eq_self_iff]

/-- Settles O3: each row looks at the control bits alone, and they have eight settings. -/
theorem everyWordMatchesOneRow : Obligations.EveryWordMatchesOneRow := by
  unfold Obligations.EveryWordMatchesOneRow
  intro w
  rw [List.filter_congr fun row inTable => row.matchesWord_and_control inTable w, ← decodeWord_and_control_mnemonic]
  obtain ⟨r, e, v, control⟩ := PortWord.exists_control w
  rw [control, decodeWord_word]
  clear control
  revert r e v
  decide

/-- Settles O4: six words of the specification, decoded. -/
theorem writtenOutWordsDecode : Obligations.WrittenOutWordsDecode := by
  unfold Obligations.WrittenOutWordsDecode
  decide

namespace Machine

/-! ### One clock edge -/

/-- A driven edge runs the token of the word on the pins. -/
theorem step_of_input_cons {s : State} {w : PortWord} {ws : List PortWord} (driven : s.input = w :: ws) :
    step s = exec (decodeWord w) { s with input := ws } := by
  simp [step, State.sampledWord, State.afterSample, driven]

/-- An undriven edge runs the token of a free word (log entry 2). -/
theorem step_of_input_nil {s : State} (undriven : s.input = []) :
    step s = exec (decodeWord (Config.hostWord s.hostDraws)) { s with hostDraws := s.hostDraws + 1 } := by
  simp [step, State.sampledWord, State.afterSample, undriven]

/-- The next edge takes the word pushed, and leaves the rest of the input. -/
theorem step_pushWord (s : State) (w : PortWord) : step (s.pushWord w) = exec (decodeWord w) s := rfl

/-- Settles O9: the edge takes the head of the input, and each port is driven by its own register. -/
theorem stepRunsTheSampledToken : Obligations.StepRunsTheSampledToken := by
  unfold Obligations.StepRunsTheSampledToken
  have bit : ∀ b : Bool, BitVec.ofBool b = if b = true then 1#1 else 0#1 := by decide
  exact ⟨fun _ _ _ => step_of_input_cons, fun s => ⟨bit s.res.valid, bit s.res.decoded, rfl, rfl⟩⟩

/-- Settles O10: where the list has ended, the word sampled is the next free one. -/
theorem undrivenEdgeSamplesAFreeWord : Obligations.UndrivenEdgeSamplesAFreeWord := by
  unfold Obligations.UndrivenEdgeSamplesAFreeWord
  exact fun _ => step_of_input_nil

/-- Settles O11: a table word that decodes is a port-cycle word, and it is pushed. -/
theorem fetchedTableWordRuns : Obligations.FetchedTableWordRuns := by
  unfold Obligations.FetchedTableWordRuns
  intro s nbits n i decoded
  obtain ⟨w, isWord, rfl⟩ := (decodeTableWord_eq_some_iff nbits n i).mp decoded
  rw [State.withFetchWord, isWord]
  exact step_pushWord s w

end Machine

end Sys2Proof
end

section
/-! What every token keeps of the invariant (10_state.md sections 1 and 2), and runs that cannot stop. -/

namespace Sys2Proof.Machine

/-! ### What a byte does to the core, said once -/

/-- The core after a payload byte under a count of 0 to 3 (40_scan_operations.md R105). -/
def CoreState.afterPayload (c : CoreState) (b : Byte) : CoreState where
  phase := if c.k.toNat + 1 = 4 then .emit else if b = Config.sync then .stuffSkip else .collectPayload
  k := BitVec.ofNat 3 (c.k.toNat + 1)
  p0 := if c.k.toNat = 0 then b else c.p0
  p1 := if c.k.toNat = 1 then b else c.p1
  p2 := if c.k.toNat = 2 then b else c.p2
  p3 := if c.k.toNat = 3 then b else c.p3

/-- Every way a byte is consumed (40_scan_operations.md R103 to R107). -/
theorem CoreState.consume_cases {c c' : CoreState} {b : Byte} (h : c.consume b = some c') :
    (c.phase = .seekSync ∧ c' = { c with phase := if b = Config.sync then .consumeType else .seekSync }) ∨
    (c.phase = .consumeType ∧ c' = if b = Config.sync then c else { c with phase := .collectPayload, k := 0#3 }) ∨
    (c.phase = .collectPayload ∧ c.k.toNat ≤ 3 ∧ c' = c.afterPayload b) ∨
    (c.phase = .stuffSkip ∧ c' = { c with phase := .collectPayload }) ∨
    (c.phase = .emit ∧ c' = c) := by
  obtain ⟨atSeek, atType, atCollect, atSkip, atEmit⟩ := c.consume_of_phase b
  cases hp : c.phase with
  | seekSync =>
    rw [atSeek hp, byteInSeekSync_eq b hp] at h
    exact .inl ⟨rfl, (Option.some.inj h).symm⟩
  | consumeType =>
    rw [atType hp] at h
    exact .inr (.inl ⟨rfl, (Option.some.inj h).symm⟩)
  | collectPayload =>
    rw [atCollect hp] at h
    have count : c.k.toNat ≤ 3 := by
      obtain ⟨-, -, -, -, refused⟩ := byteInCollectPayload_of_count (c := c) b
      by_contra above
      simp [refused (by omega)] at h
    rw [byteInCollectPayload_eq b count] at h
    exact .inr (.inr (.inl ⟨rfl, count, (Option.some.inj h).symm⟩))
  | stuffSkip =>
    rw [atSkip hp] at h
    exact .inr (.inr (.inr (.inl ⟨rfl, (Option.some.inj h).symm⟩)))
  | emit =>
    rw [atEmit hp] at h
    exact .inr (.inr (.inr (.inr ⟨rfl, (Option.some.inj h).symm⟩)))

/-! ### The legal cores -/

/-- A cleared core is legal. -/
theorem CoreState.cleared_legal : CoreState.cleared.Legal := by decide

/-- A legal count is at most 4 (10_state.md R22). -/
theorem CoreState.count_le_four {c : CoreState} (legal : c.CountLegal) : c.k.toNat ≤ 4 := by
  obtain ⟨seeking, consuming, collecting, skipping, emitting⟩ := legal
  cases hp : c.phase with
  | seekSync => simp [seeking hp]
  | consumeType => simp [consuming hp]
  | collectPayload => have := collecting hp; omega
  | stuffSkip => have := skipping hp; omega
  | emit => simp [emitting hp]

/-- A payload byte in COLLECT_PAYLOAD leaves a legal core: it is stored below the new count, and is the 0xAA of the
skip it asks for. -/
theorem CoreState.afterPayload_legal {c : CoreState} (b : Byte) (hp : c.phase = .collectPayload) (hk : c.k.toNat ≤ 3)
    (legal : c.Legal) : (c.afterPayload b).Legal := by
  obtain ⟨-, -, zeros, -⟩ := legal
  obtain ⟨-, zero1, zero2, zero3⟩ := zeros (.inl hp)
  have count := CoreState.count_cases hk
  unfold CoreState.afterPayload CoreState.Legal CoreState.CountLegal CoreState.ZeroFromCount
  by_cases sync : b = Config.sync
  · obtain h | h | h | h := count <;> simp [h, sync, zero1, zero2, zero3]
  · obtain h | h | h | h := count <;> simp [h, sync, zero1, zero2, zero3]

/-- Every byte keeps a legal core legal (10_state.md R24). -/
theorem CoreState.consume_legal {c c' : CoreState} {b : Byte} (legal : c.Legal) (h : c.consume b = some c') :
    c'.Legal := by
  rcases CoreState.consume_cases h with ⟨hp, rfl⟩ | ⟨hp, rfl⟩ | ⟨hp, hk, rfl⟩ | ⟨hp, rfl⟩ | ⟨hp, rfl⟩
  · obtain ⟨⟨seeking, -⟩, zeros, -⟩ := legal
    have k := seeking hp
    have zero := zeros (.inl hp)
    by_cases sync : b = Config.sync <;> simp [sync, k, zero, CoreState.Legal, CoreState.CountLegal]
  · by_cases sync : b = Config.sync
    · simpa [sync] using legal
    · obtain ⟨-, zeros, -⟩ := legal
      have zero := zeros (.inr hp)
      simp [sync, zero, CoreState.Legal, CoreState.CountLegal, CoreState.ZeroFromCount]
  · exact CoreState.afterPayload_legal b hp hk legal
  · obtain ⟨⟨-, -, -, skipping, -⟩, -, zeros, -⟩ := legal
    have count := skipping hp
    have zero := zeros (.inr hp)
    exact ⟨by simp [CoreState.CountLegal, count.2], by simp, fun _ => zero, by simp⟩
  · exact legal

/-- A byte adds at most one to the count (40_scan_operations.md section 7). -/
theorem CoreState.consume_count_le {c c' : CoreState} {b : Byte} (h : c.consume b = some c') :
    c'.k.toNat ≤ c.k.toNat + 1 := by
  rcases CoreState.consume_cases h with ⟨_, rfl⟩ | ⟨_, rfl⟩ | ⟨_, hk, rfl⟩ | ⟨_, rfl⟩ | ⟨_, rfl⟩
  · simp
  · by_cases sync : b = Config.sync <;> simp [sync]
  · exact Nat.mod_le _ _
  · simp
  · simp

/-! ### The result registers -/

/-- Published registers agree with their reason (10_state.md R25). -/
theorem State.publish_consistent (s : State) : s.publish.res.Consistent := by
  cases h : s.core.result with
  | decoded q0 q1 q2 q3 => simp [State.publish_res_of_decoded h, ResultRegs.Consistent]
  | incomplete r =>
    obtain ⟨draw, published⟩ := State.publish_res_of_incomplete h
    cases r <;> simp [published, IncompleteReason.toReason, ResultRegs.Consistent]

/-- A result may stay after its step, since a low `res_valid` asks for no reason. -/
theorem ResultRegs.clearValid_consistent {r : ResultRegs} (h : r.Consistent) : r.clearValid.Consistent :=
  ⟨h.1, by simp⟩

/-- Cleared registers hold no result, so they agree (10_state.md R31). -/
theorem ResultRegs.cleared_consistent : ResultRegs.cleared.Consistent := by decide

/-! ### The invariant -/

/-- After RESET the invariant holds, whatever held before it. -/
theorem State.applyReset_inv (s : State) : s.applyReset.Inv :=
  ⟨rfl, CoreState.cleared_legal, ResultRegs.cleared_consistent⟩

/-- A chunk's end leaves a state of the invariant, whatever the core was. -/
theorem State.publish_inv {s : State} (applied : s.resetApplied = true) : s.publish.Inv :=
  ⟨by simp [applied], by rw [State.publish_core]; exact CoreState.cleared_legal, s.publish_consistent⟩

/-- Every token keeps the invariant. -/
theorem exec_keeps_inv {i : Instr} {s t : State} (inv : s.Inv) (h : exec i s = .next t) : t.Inv := by
  obtain ⟨applied, legal, consistent⟩ := inv
  rcases exec_next_cases h with ⟨_, _, rfl⟩ | ⟨b, c, _, _, consumed, rfl⟩ | ⟨_, _, rfl⟩ | ⟨b, c, _, _, consumed, rfl⟩ |
    ⟨_, rfl⟩
  · exact ⟨applied, legal, ResultRegs.clearValid_consistent consistent⟩
  · exact ⟨applied, CoreState.consume_legal legal consumed, ResultRegs.clearValid_consistent consistent⟩
  · exact State.publish_inv applied
  · exact State.publish_inv (s := s.setCore c) applied
  · exact s.applyReset_inv

/-- Sampling the pins changes nothing the invariant speaks of. -/
theorem State.afterSample_inv {s : State} (inv : s.Inv) : s.afterSample.Inv := by
  simpa [State.Inv] using inv

/-- From a state of the invariant every token sequence runs to its end, and there the invariant holds again. -/
theorem runTokens_of_inv (ts : List Instr) {s : State} (inv : s.Inv) :
    ∃ t rs, runTokens ts s = .next (t, rs) ∧ t.Inv := by
  induction ts generalizing s with
  | nil => exact ⟨s, [], rfl, inv⟩
  | cons i ts ih =>
    obtain ⟨s1, first⟩ := everyTokenCompletes i s inv
    obtain ⟨t, rs, rest, invEnd⟩ := ih (exec_keeps_inv inv first)
    exact ⟨t, _, runTokens_cons_of_next first rest, invEnd⟩

/-! ### The statements -/

/-- Settles O37: the edge is the sampled word's token on a state that differs in the input alone, and a token keeps the
invariant: a byte by the rule of its phase, a chunk's end and RESET from any core. -/
theorem stepKeepsInv : Obligations.StepKeepsInv := by
  unfold Obligations.StepKeepsInv
  exact fun _ _ inv => exec_keeps_inv (State.afterSample_inv inv)

/-- Settles O36: the reset state is what RESET leaves of it. -/
theorem invAtReset : Obligations.InvAtReset := State.applyReset_inv State.reset

/-- Settles O38: the invariant holds at reset, and a run from it completes and keeps it. -/
theorem reachableStatesAreLegal : Obligations.ReachableStatesAreLegal := by
  unfold Obligations.ReachableStatesAreLegal
  intro ts
  obtain ⟨t, rs, run, -, legal, decoded, -⟩ := runTokens_of_inv ts invAtReset
  exact ⟨t, rs, run, legal, decoded⟩

/-- Settles O28: RESET completes anywhere and establishes the invariant, under which no token stops. -/
theorem resetFirstProgramNeverStops : Obligations.ResetFirstProgramNeverStops := by
  unfold Obligations.ResetFirstProgramNeverStops
  intro ts s resetFirst
  obtain ⟨rest, rfl⟩ := List.head?_eq_some_iff.mp resetFirst
  obtain ⟨t, rs, run, -⟩ := runTokens_of_inv rest s.applyReset_inv
  exact ⟨t, _, runTokens_cons_of_next (exec_reset s) run⟩

/-- Settles O39: the invariant bounds the count, a byte adds at most one, and every other token keeps or clears it. -/
theorem countNeverWraps : Obligations.CountNeverWraps := by
  unfold Obligations.CountNeverWraps
  intro i s t inv h
  obtain ⟨-, ⟨countLegal, -⟩, -⟩ := exec_keeps_inv inv h
  refine ⟨CoreState.count_le_four countLegal, ?_⟩
  rcases exec_next_cases h with ⟨_, _, rfl⟩ | ⟨_, _, _, _, consumed, rfl⟩ | ⟨_, _, rfl⟩ | ⟨_, _, _, _, _, rfl⟩ |
    ⟨_, rfl⟩
  · simp
  · exact CoreState.consume_count_le consumed
  · simp
  · simp
  · simp

end Sys2Proof.Machine
end

section
/-! What each token leaves unchanged, and what it does not look at (10_state.md section 2, 40_scan_operations.md). -/

namespace Sys2Proof.Machine

/-! ### A byte's frame -/

/-- A payload byte writes the register that the count names, and no other (40_scan_operations.md R105). -/
theorem CoreState.afterPayload_frame (c : CoreState) (b : Byte) :
    (c.k ≠ 0#3 → (c.afterPayload b).p0 = c.p0) ∧ (c.k ≠ 1#3 → (c.afterPayload b).p1 = c.p1) ∧
    (c.k ≠ 2#3 → (c.afterPayload b).p2 = c.p2) ∧ (c.k ≠ 3#3 → (c.afterPayload b).p3 = c.p3) := by
  have named : ∀ n < 8, c.k ≠ BitVec.ofNat 3 n → c.k.toNat ≠ n := fun n small other same =>
    other (BitVec.eq_of_toNat_eq (by simp [same]; omega))
  exact ⟨fun h => if_neg (named 0 (by decide) h), fun h => if_neg (named 1 (by decide) h),
    fun h => if_neg (named 2 (by decide) h), fun h => if_neg (named 3 (by decide) h)⟩

/-- What a byte keeps of the core: every payload register but p(k) in COLLECT_PAYLOAD, and outside two phases the
count (40_scan_operations.md R103 to R107). -/
theorem CoreState.consume_frame {c c' : CoreState} {b : Byte} (h : c.consume b = some c') :
    (¬(c.phase = .collectPayload ∧ c.k = 0#3) → c'.p0 = c.p0) ∧
    (¬(c.phase = .collectPayload ∧ c.k = 1#3) → c'.p1 = c.p1) ∧
    (¬(c.phase = .collectPayload ∧ c.k = 2#3) → c'.p2 = c.p2) ∧
    (¬(c.phase = .collectPayload ∧ c.k = 3#3) → c'.p3 = c.p3) ∧
    (c.phase ≠ .collectPayload → c.phase ≠ .consumeType → c'.k = c.k) := by
  rcases CoreState.consume_cases h with ⟨_, rfl⟩ | ⟨hp, rfl⟩ | ⟨hp, _, rfl⟩ | ⟨_, rfl⟩ | ⟨_, rfl⟩
  · simp
  · by_cases sync : b = Config.sync <;> simp [sync, hp]
  · obtain ⟨p0, p1, p2, p3⟩ := c.afterPayload_frame b
    exact ⟨fun other => p0 (other ⟨hp, ·⟩), fun other => p1 (other ⟨hp, ·⟩), fun other => p2 (other ⟨hp, ·⟩),
      fun other => p3 (other ⟨hp, ·⟩), absurd hp⟩
  · simp
  · simp

/-- Settles O29: IDLE keeps the core, a byte keeps what its phase's rule does not name, and both clear `res_valid`
alone of what is no core register. -/
theorem idleAndByteFrame : Obligations.IdleAndByteFrame := by
  unfold Obligations.IdleAndByteFrame
  intro i s t token h
  obtain rfl | ⟨b, rfl⟩ := token
  · obtain ⟨_, same⟩ := afterReset_next h
    cases same
    exact ⟨rfl, rfl, rfl, rfl, rfl, fun _ => rfl, fun _ => rfl, fun _ => rfl, fun _ => rfl, fun _ => rfl,
      fun _ _ => rfl⟩
  · obtain ⟨c, _, consumed, rfl⟩ := exec_byte_next h
    exact ⟨rfl, rfl, rfl, rfl, rfl, nofun, CoreState.consume_frame consumed⟩

/-! ### The chunk's end -/

/-- END and BYTE_END publish: the core as it stood, or as the byte left it, and nothing else of the state has changed
before (40_scan_operations.md R108, R109). -/
theorem exec_chunkEnd_next_setCore {i : Instr} {s t : State} (ending : i = .endChunk ∨ ∃ b, i = .byteEnd b)
    (h : exec i s = .next t) : ∃ c, t = (s.setCore c).publish := by
  obtain rfl | ⟨b, rfl⟩ := ending
  · obtain ⟨_, published⟩ := afterReset_next h
    cases published
    exact ⟨s.core, rfl⟩
  · rcases exec_next_cases h with ⟨⟨⟩, _⟩ | ⟨_, _, ⟨⟩, _⟩ | ⟨⟨⟩, _⟩ | ⟨_, c, ⟨⟩, _, _, rfl⟩ | ⟨⟨⟩, _⟩
    exact ⟨c, rfl⟩

/-- A draw is taken, and shown, exactly by an Incomplete result (40_scan_operations.md R100). -/
theorem State.publish_draw (s : State) :
    s.publish.payloadDraws = (if s.publish.res.decoded then s.payloadDraws else s.payloadDraws + 1) ∧
    (s.publish.res.decoded = false → s.publish.res.payload = Config.payloadDraw s.payloadDraws) := by
  rcases s.publish_cases with ⟨_, published⟩ | ⟨r, _, published⟩
  · simp [published]
  · simp [published]

/-- Settles O30: publishing writes the core, the result registers and the draw counter. -/
theorem endAndByteEndFrame : Obligations.EndAndByteEndFrame := by
  unfold Obligations.EndAndByteEndFrame
  intro i s t ending h
  obtain ⟨c, rfl⟩ := exec_chunkEnd_next_setCore ending h
  exact ⟨by simp, by simp, by simp, (s.setCore c).publish_draw⟩

/-- After any other token `res_valid` is low (10_state.md R25). -/
theorem exec_valid_of_not_chunkEnd {i : Instr} {s t : State} (notEnd : ¬(i = .endChunk ∨ ∃ b, i = .byteEnd b))
    (h : exec i s = .next t) : t.res.valid = false := by
  rcases exec_next_cases h with ⟨_, _, rfl⟩ | ⟨_, c, _, _, _, rfl⟩ | ⟨ended, _⟩ | ⟨b, _, ended, _⟩ | ⟨_, rfl⟩
  · simp
  · simp
  · exact absurd (.inl ended) notEnd
  · exact absurd (.inr ⟨b, ended⟩) notEnd
  · simp

/-- Settles O32: END and BYTE_END raise `res_valid` and show the result of a core; the other tokens lower it, and then
no result shows. -/
theorem validMarksThePublishingStep : Obligations.ValidMarksThePublishingStep := by
  unfold Obligations.ValidMarksThePublishingStep
  intro i s t h
  by_cases ending : i = .endChunk ∨ ∃ b, i = .byteEnd b
  · obtain ⟨u, rfl⟩ := exec_chunkEnd_next ending h
    simp [ending, u.publish_published]
  · have low := exec_valid_of_not_chunkEnd ending h
    simp [ending, low, State.published, ResultRegs.published]

/-! ### BYTE_END from the state before it -/

/-- The result of a chunk that a byte ends, from the core before the byte (40_scan_operations.md R105, R108, R109). -/
theorem CoreState.result_of_consume {c c' : CoreState} {b : Byte} (h : c.consume b = some c') :
    c'.result =
      if c.phase = .emit then .decoded c.p0 c.p1 c.p2 c.p3
      else if c.phase = .collectPayload ∧ c.k.toNat = 3 then .decoded c.p0 c.p1 c.p2 b
      else if c.phase = .seekSync ∨ (c.phase = .consumeType ∧ b = Config.sync) then .incomplete .noSync
      else .incomplete .shortFrame := by
  rcases CoreState.consume_cases h with ⟨hp, rfl⟩ | ⟨hp, rfl⟩ | ⟨hp, hk, rfl⟩ | ⟨hp, rfl⟩ | ⟨hp, rfl⟩
  · by_cases sync : b = Config.sync <;> simp [CoreState.result, hp, sync]
  · by_cases sync : b = Config.sync <;> simp [CoreState.result, hp, sync]
  · by_cases last : c.k.toNat = 3
    · simp [CoreState.result, CoreState.afterPayload, hp, last]
    · by_cases sync : b = Config.sync <;> simp [CoreState.result, CoreState.afterPayload, hp, last, sync]
  · simp [CoreState.result, hp]
  · simp [CoreState.result, hp]

/-- A byte is consumed in every phase, in COLLECT_PAYLOAD under a count of 0 to 3 (40_scan_operations.md R102). -/
theorem CoreState.exists_consume {c : CoreState} (b : Byte) (count : c.phase = .collectPayload → c.k.toNat ≤ 3) :
    ∃ c', c.consume b = some c' := by
  obtain ⟨atSeek, atType, atCollect, atSkip, atEmit⟩ := c.consume_of_phase b
  cases hp : c.phase with
  | seekSync => exact ⟨_, atSeek hp⟩
  | consumeType => exact ⟨_, atType hp⟩
  | collectPayload => exact ⟨_, (atCollect hp).trans (byteInCollectPayload_eq b (count hp))⟩
  | stuffSkip => exact ⟨_, atSkip hp⟩
  | emit => exact ⟨_, atEmit hp⟩

/-- The result registers that an Incomplete result leaves, but for the draw (40_scan_operations.md R108). -/
theorem State.publish_flags_of_incomplete {s : State} {r : IncompleteReason} (h : s.core.result = .incomplete r) :
    s.publish.res.valid = true ∧ s.publish.res.decoded = false ∧ s.publish.res.reason = r.toReason := by
  obtain ⟨draw, published⟩ := State.publish_res_of_incomplete h
  simp [published]

/-- Settles O21: the byte is consumed, and the registers show the result of the core it left, which the core before it
and the byte determine. -/
theorem byteEndResult : Obligations.ByteEndResult := by
  unfold Obligations.ByteEndResult
  intro s b applied count
  obtain ⟨c, consumed⟩ := CoreState.exists_consume b count
  have result : (s.setCore c).core.result = _ := CoreState.result_of_consume consumed
  refine ⟨_, exec_byteEnd_of_consume applied consumed, State.publish_core _, by simp, by simp, by simp, ?_⟩
  split
  next emitting => exact State.publish_res_of_decoded (result.trans (if_pos emitting))
  next notEmitting =>
    rw [if_neg notEmitting] at result
    split
    next last => exact State.publish_res_of_decoded (result.trans (if_pos last))
    next notLast =>
      rw [if_neg notLast] at result
      split
      next seeking => exact State.publish_flags_of_incomplete (result.trans (if_pos seeking))
      next found => exact State.publish_flags_of_incomplete (result.trans (if_neg found))

/-- Settles O26: k names no payload register, so the byte is not consumed, and neither token has a next state. -/
theorem payloadCountOutOfRangeIsRefused : Obligations.PayloadCountOutOfRangeIsRefused := by
  unfold Obligations.PayloadCountOutOfRangeIsRefused
  intro s b applied collecting above
  obtain ⟨-, -, atCollect, -⟩ := s.core.consume_of_phase b
  obtain ⟨-, -, -, -, refused⟩ := byteInCollectPayload_of_count (c := s.core) b
  have notConsumed : s.core.consume b = none := (atCollect collecting).trans (refused above)
  constructor
  · simp [exec, execByte, afterReset_of_applied applied, notConsumed]
  · simp [exec, execByteEnd, afterReset_of_applied applied, notConsumed]

end Sys2Proof.Machine
end

section
/-! What a token does not read: the result registers, the draws left and the words still to come (10_state.md R28, R29,
R32). -/

namespace Sys2Proof.Machine

/-! ### The result registers -/

/-- Publishing reads no result register and writes them all (10_state.md R28, 60_exceptions.md R172). -/
theorem State.publish_withRes (s : State) (r : ResultRegs) : { s with res := r }.publish = s.publish := by
  cases h : s.core.result with
  | decoded q0 q1 q2 q3 => simp [State.publish, h]
  | incomplete q => simp [State.publish, h]

/-- Under other result registers a token does the same, result registers apart; it publishes the same; and END,
BYTE_END and RESET leave the same of those too. -/
theorem exec_withRes {i : Instr} {s t : State} (r : ResultRegs) (h : exec i s = .next t) :
    ∃ r', exec i { s with res := r } = .next { t with res := r' } ∧
      { t with res := r' }.published = t.published ∧
      (i = .endChunk ∨ i = .reset ∨ (∃ b, i = .byteEnd b) → { t with res := r' } = t) := by
  rcases exec_next_cases h with ⟨rfl, applied, rfl⟩ | ⟨b, c, rfl, applied, consumed, rfl⟩ | ⟨rfl, applied, rfl⟩ |
    ⟨b, c, rfl, applied, consumed, rfl⟩ | ⟨rfl, rfl⟩
  · exact ⟨r.clearValid, exec_idle_of_applied (s := { s with res := r }) applied, rfl, by simp⟩
  · exact ⟨r.clearValid, exec_byte_of_consume (s := { s with res := r }) applied consumed, rfl, by simp⟩
  · refine ⟨s.publish.res, ?_, rfl, fun _ => rfl⟩
    exact (exec_endChunk_of_applied (s := { s with res := r }) applied).trans
      (congrArg Host.Outcome.next (s.publish_withRes r))
  · refine ⟨(s.setCore c).publish.res, ?_, rfl, fun _ => rfl⟩
    exact (exec_byteEnd_of_consume (s := { s with res := r }) applied consumed).trans
      (congrArg Host.Outcome.next ((s.setCore c).publish_withRes r))
  · exact ⟨ResultRegs.cleared, rfl, rfl, fun _ => rfl⟩

/-- Settles O33: under other result registers the core is the same, and after END, BYTE_END and RESET the state. -/
theorem noTokenReadsAResultRegister : Obligations.NoTokenReadsAResultRegister := by
  unfold Obligations.NoTokenReadsAResultRegister
  intro i s t r h
  obtain ⟨r', same, -, forgets⟩ := exec_withRes r h
  exact ⟨_, same, rfl, forgets⟩

/-! ### The draws -/

/-- What the block and its host can tell of a state, if the host reads the payload only when decoded (60_exceptions.md
R186): the two states agree on it. -/
def State.SameToHost (t t' : State) : Prop :=
  t'.core = t.core ∧ t'.res.valid = t.res.valid ∧ t'.res.decoded = t.res.decoded ∧ t'.res.reason = t.res.reason ∧
  t'.published = t.published ∧ t'.hostPayload = t.hostPayload

/-- States with the same core and result registers are the same to the host. -/
theorem State.sameToHost_of_eq {t t' : State} (core : t'.core = t.core) (res : t'.res = t.res) : t.SameToHost t' := by
  simp [State.SameToHost, State.published, State.hostPayload, core, res]

/-- The draw of an Incomplete result is the one difference that other draws make, and the host does not read it
(10_state.md R29). -/
theorem State.publish_sameToHost {s u : State} (core : u.core = s.core) : s.publish.SameToHost u.publish := by
  cases h : s.core.result with
  | decoded q0 q1 q2 q3 =>
    have h' : u.core.result = _ := core ▸ h
    exact State.sameToHost_of_eq (by simp)
      ((State.publish_res_of_decoded h').trans (State.publish_res_of_decoded h).symm)
  | incomplete r =>
    have h' : u.core.result = _ := core ▸ h
    obtain ⟨draw, published⟩ := State.publish_res_of_incomplete h
    obtain ⟨draw', published'⟩ := State.publish_res_of_incomplete h'
    simp [State.SameToHost, State.publish_published, h, h', published, published', State.hostPayload]

/-- Settles O34: only END and BYTE_END take a draw, and the host does not read the payload it goes to. -/
theorem drawReachesOnlyTheUnreadPayload : Obligations.DrawReachesOnlyTheUnreadPayload := by
  unfold Obligations.DrawReachesOnlyTheUnreadPayload
  intro i s t n h
  rcases exec_next_cases h with ⟨rfl, applied, rfl⟩ | ⟨b, c, rfl, applied, consumed, rfl⟩ | ⟨rfl, applied, rfl⟩ |
    ⟨b, c, rfl, applied, consumed, rfl⟩ | ⟨rfl, rfl⟩
  · exact ⟨_, exec_idle_of_applied (s := { s with payloadDraws := n }) applied, State.sameToHost_of_eq rfl rfl⟩
  · exact ⟨_, exec_byte_of_consume (s := { s with payloadDraws := n }) applied consumed,
      State.sameToHost_of_eq rfl rfl⟩
  · exact ⟨_, exec_endChunk_of_applied (s := { s with payloadDraws := n }) applied, State.publish_sameToHost rfl⟩
  · exact ⟨_, exec_byteEnd_of_consume (s := { s with payloadDraws := n }) applied consumed,
      State.publish_sameToHost rfl⟩
  · exact ⟨_, exec_reset _, State.sameToHost_of_eq rfl rfl⟩

/-! ### The words still to come -/

/-- Publishing does not look at the input. -/
theorem State.publish_withInput (s : State) (ws : List PortWord) :
    { s with input := ws }.publish = { s.publish with input := ws } := by
  cases h : s.core.result with
  | decoded q0 q1 q2 q3 => simp [State.publish, h]
  | incomplete q => simp [State.publish, h]

/-- A token does not look at the input, and keeps it (10_state.md R32). -/
theorem exec_withInput {i : Instr} {s t : State} (ws : List PortWord) (h : exec i s = .next t) :
    exec i { s with input := ws } = .next { t with input := ws } := by
  rcases exec_next_cases h with ⟨rfl, applied, rfl⟩ | ⟨b, c, rfl, applied, consumed, rfl⟩ | ⟨rfl, applied, rfl⟩ |
    ⟨b, c, rfl, applied, consumed, rfl⟩ | ⟨rfl, rfl⟩
  · exact exec_idle_of_applied (s := { s with input := ws }) applied
  · exact exec_byte_of_consume (s := { s with input := ws }) applied consumed
  · exact (exec_endChunk_of_applied (s := { s with input := ws }) applied).trans
      (congrArg Host.Outcome.next (s.publish_withInput ws))
  · exact (exec_byteEnd_of_consume (s := { s with input := ws }) applied consumed).trans
      (congrArg Host.Outcome.next ((s.setCore c).publish_withInput ws))
  · rfl

/-- So the input stands. -/
theorem exec_input {i : Instr} {s t : State} (h : exec i s = .next t) : t.input = s.input := by
  have same : t = { t with input := s.input } := Host.Outcome.next.inj (h.symm.trans (exec_withInput s.input h))
  rw [same]

/-- An edge over a token's canonical word runs the token, and drops the word from the input. -/
theorem step_encode {i : Instr} {s t : State} (ws : List PortWord) (h : exec i s = .next t) :
    step { s with input := encode i :: ws } = .next { t with input := ws } := by
  rw [step_of_input_cons (s := { s with input := encode i :: ws }) rfl, decodeWord_encode]
  exact exec_withInput (s := s) ws h

/-- As many edges as tokens, over their canonical words, run the sequence and leave the other words. -/
theorem run_encode {ts : List Instr} {s t : State} {rs : List Result} (rest : List PortWord)
    (h : runTokens ts s = .next (t, rs)) :
    Sys2Proof.core.run ts.length { s with input := ts.map encode ++ rest } = .next { t with input := rest } := by
  induction ts generalizing s rs with
  | nil =>
    cases h
    rfl
  | cons i ts ih =>
    obtain ⟨s1, rs1, first, after, rfl⟩ := runTokens_cons_next h
    have edge : Sys2Proof.core.step { s with input := encode i :: (ts.map encode ++ rest) } = _ := step_encode _ first
    simp only [List.length_cons, List.map_cons, List.cons_append, Host.Core.run, edge]
    exact ih after

/-- A run keeps the input. -/
theorem runTokens_input {ts : List Instr} {s t : State} {rs : List Result} (h : runTokens ts s = .next (t, rs)) :
    t.input = s.input := by
  induction ts generalizing s rs with
  | nil =>
    cases h
    rfl
  | cons i ts ih =>
    obtain ⟨s1, rs1, first, after, rfl⟩ := runTokens_cons_next h
    exact (ih after).trans (exec_input first)

/-- Settles O12: edge by edge the word decodes to its token, which does not look at the words behind it. -/
theorem stepsRunTheTokenSequence : Obligations.StepsRunTheTokenSequence := by
  unfold Obligations.StepsRunTheTokenSequence
  intro ts s t rest rs h
  obtain rfl : t.input = rest := runTokens_input h
  exact run_encode (s := { s with input := t.input }) t.input h

end Sys2Proof.Machine
end

section
/-! Chunks delivered as CHUNK or CHUNKJ with IDLE anywhere, and sessions of them (41_chunk_semantics.md sections 2 and
3, 20_memory.md section 5). -/

namespace Sys2Proof.Machine

/-! ### RESET stays applied -/

/-- No token takes the launch premise away: it is asked for, or RESET sets it. -/
theorem exec_resetApplied {i : Instr} {s t : State} (h : exec i s = .next t) : t.resetApplied = true := by
  rcases exec_next_cases h with ⟨_, applied, rfl⟩ | ⟨_, c, _, applied, _, rfl⟩ | ⟨_, applied, rfl⟩ |
    ⟨_, c, _, applied, _, rfl⟩ | ⟨_, rfl⟩
  · exact applied
  · exact applied
  · simp [applied]
  · simp [applied]
  · rfl

/-- Nor does a run. -/
theorem runTokens_resetApplied {ts : List Instr} {s t : State} {rs : List Result} (applied : s.resetApplied = true)
    (h : runTokens ts s = .next (t, rs)) : t.resetApplied = true := by
  induction ts generalizing s rs with
  | nil =>
    cases h
    exact applied
  | cons i ts ih =>
    obtain ⟨s1, rs1, first, rest, rfl⟩ := runTokens_cons_next h
    exact ih (exec_resetApplied first) rest

/-! ### IDLE between the tokens -/

/-- With IDLE put in anywhere, and whatever the result registers held, a run publishes the same and ends in the same
state, result registers apart (60_exceptions.md R190). -/
theorem runTokens_of_filter_idle {ts : List Instr} {s t : State} {rs : List Result} (applied : s.resetApplied = true)
    (h : runTokens (ts.filter (· != .idle)) s = .next (t, rs)) (r : ResultRegs) :
    ∃ r', runTokens ts { s with res := r } = .next ({ t with res := r' }, rs) := by
  induction ts generalizing s rs r with
  | nil =>
    cases h
    exact ⟨r, rfl⟩
  | cons i ts ih =>
    by_cases idle : i = .idle
    · subst idle
      obtain ⟨r', rest⟩ := ih applied h r.clearValid
      exact ⟨r', runTokens_cons_of_next (exec_idle_of_applied (s := { s with res := r }) applied) rest⟩
    · rw [List.filter_cons_of_pos (by simpa using idle)] at h
      obtain ⟨s1, rs1, first, rest, rfl⟩ := runTokens_cons_next h
      obtain ⟨r1, first', published, -⟩ := exec_withRes r first
      obtain ⟨r', rest'⟩ := ih (exec_resetApplied first) rest r1
      exact ⟨r', published ▸ runTokens_cons_of_next first' rest'⟩

/-! ### CHUNKJ -/

/-- CHUNKJ of a byte and more behind it begins with that byte. -/
theorem chunkJTokens_cons {b : Byte} {rest : List Byte} (more : rest ≠ []) :
    chunkJTokens (b :: rest) = .byte b :: chunkJTokens rest := by
  cases rest with
  | nil => exact absurd rfl more
  | cons c rest => rfl

/-- CHUNKJ does what CHUNK does: BYTE publishes nothing, so its last BYTE and its END may share an edge
(40_scan_operations.md R109). -/
theorem runTokens_chunkJTokens {chunk : List Byte} {s t : State} {rs : List Result} (nonempty : chunk ≠ [])
    (h : runTokens (chunkTokens chunk) s = .next (t, rs)) : runTokens (chunkJTokens chunk) s = .next (t, rs) := by
  induction chunk generalizing s rs with
  | nil => exact absurd rfl nonempty
  | cons b rest ih =>
    obtain ⟨u, rs1, first, after, rfl⟩ := runTokens_cons_next h
    by_cases more : rest = []
    · subst more
      obtain ⟨v, rs2, ended, stop, rfl⟩ := runTokens_cons_next after
      have silent : u.published = none :=
        exec_published_of_not_chunkEnd (by simp) (by simp) first
      have joined := (TokenRules.byteEndIsByteThenEnd s u b first).trans ended
      simpa [silent, chunkJTokens] using runTokens_cons_of_next joined stop
    · rw [chunkJTokens_cons more]
      exact runTokens_cons_of_next first (ih more after)

/-! ### Delivered chunks -/

/-- A delivered chunk publishes its scan, and leaves a chunk boundary. -/
theorem runTokens_of_delivers {chunk : List Byte} {ts : List Instr} {s : State} (boundary : s.AtBoundary)
    (delivers : Delivers ts chunk) : ∃ t, runTokens ts s = .next (t, [scan chunk]) ∧ t.AtBoundary := by
  obtain ⟨u, chunkRun, -⟩ := runTokens_chunkTokens chunk boundary
  obtain ⟨applied, -⟩ := boundary
  have filtered : runTokens (ts.filter (· != .idle)) s = .next (u.publish, [scan chunk]) := by
    obtain form | ⟨nonempty, form⟩ := delivers
    · rw [form, chunkRun]
    · rw [form, runTokens_chunkJTokens nonempty chunkRun]
  obtain ⟨r, run⟩ := runTokens_of_filter_idle applied filtered s.res
  exact ⟨_, run, runTokens_resetApplied applied run, u.publish_core⟩

/-- Settles O41: IDLE apart the tokens are CHUNK or CHUNKJ, which publish the chunk's scan. -/
theorem deliveredChunkPublishesItsScan : Obligations.DeliveredChunkPublishesItsScan := by
  unfold Obligations.DeliveredChunkPublishesItsScan
  intro chunk ts s boundary delivers
  obtain ⟨t, run, applied, cleared⟩ := runTokens_of_delivers boundary delivers
  exact ⟨t, run, cleared, applied⟩

/-- `res_decoded` tells the two kinds of result apart (10_state.md R25, 40_scan_operations.md R108). -/
theorem State.publish_decoded_iff (s : State) :
    s.publish.res.decoded = true ↔ ∃ q0 q1 q2 q3, s.core.result = .decoded q0 q1 q2 q3 := by
  cases h : s.core.result with
  | decoded q0 q1 q2 q3 => simp [State.publish_res_of_decoded h]
  | incomplete r =>
    obtain ⟨draw, published⟩ := State.publish_res_of_incomplete h
    simp [published]

/-- Settles O42: the bytes publish nothing and leave a core whose result is the chunk's scan, and END publishes it. -/
theorem resultComesAtTheEnd : Obligations.ResultComesAtTheEnd := by
  unfold Obligations.ResultComesAtTheEnd
  intro chunk s ⟨applied, cleared⟩
  obtain ⟨u, bytes, appliedEnd, result⟩ := runTokens_bytes chunk applied (by rw [cleared]; decide)
  have scanned : u.core.result = scan chunk := by
    rw [result, cleared]
    rfl
  exact ⟨u, u.publish, bytes, exec_endChunk_of_applied appliedEnd, scanned ▸ u.publish_published,
    scanned ▸ u.publish_decoded_iff⟩

/-- Settles O43: every chunk begins at the boundary that the chunk before it left. -/
theorem resultsComeInChunkOrder : Obligations.ResultsComeInChunkOrder := by
  unfold Obligations.ResultsComeInChunkOrder
  intro reads s boundary delivered
  induction reads generalizing s with
  | nil => exact ⟨s, rfl, boundary⟩
  | cons read reads ih =>
    obtain ⟨here, later⟩ := List.forall_mem_cons.mp delivered
    obtain ⟨u, run, boundary'⟩ := runTokens_of_delivers boundary here
    obtain ⟨t, rest, boundaryEnd⟩ := ih u boundary' later
    exact ⟨t, runTokens_append run rest, boundaryEnd⟩

/-- Settles O44: RESET publishes nothing, and leaves a chunk boundary. -/
theorem resetAbandonsTheOpenChunk : Obligations.ResetAbandonsTheOpenChunk := by
  unfold Obligations.ResetAbandonsTheOpenChunk
  intro chunk ts s delivers
  obtain ⟨t, run, boundary⟩ := runTokens_of_delivers (s := s.applyReset) ⟨rfl, rfl⟩ delivers
  exact ⟨t, by simpa using runTokens_cons_of_next (exec_reset s) run, boundary⟩

/-- Settles O53: each byte is a token; END is one more in CHUNK, and shares the last byte's in CHUNKJ. -/
theorem chunkEdgeCounts : Obligations.ChunkEdgeCounts := by
  unfold Obligations.ChunkEdgeCounts
  refine fun chunk => ⟨by simp [chunkTokens], ?_⟩
  induction chunk with
  | nil => rfl
  | cons b rest ih =>
    cases rest with
    | nil => rfl
    | cons c rest => rw [chunkJTokens_cons (by simp), List.length_cons, ih, List.length_cons (a := b)]

end Sys2Proof.Machine
end

section
/-! The reference function by its cursors (41_chunk_semantics.md section 2), and one frame per chunk (section 3). -/

namespace Sys2Proof.Machine

/-! ### The collection's cursors -/

/-- The cursor behind the byte at this one: a 0xAA has a stuffing byte behind it (41_chunk_semantics.md R143). -/
def nextCursor (chunk : List Byte) (c : Nat) : Nat := c + if chunk[c]? = some 0xAA#8 then 2 else 1

/-- The cursors go up. -/
theorem lt_nextCursor (chunk : List Byte) (c : Nat) : c < nextCursor chunk c := by
  unfold nextCursor
  split <;> omega

/-- A collection reads the byte at its cursor and goes on behind it. -/
theorem collect_of_getElem? {chunk : List Byte} {c : Nat} {b : Byte} (n : Nat) (q : List Byte)
    (h : chunk[c]? = some b) : collect chunk (n + 1) c q = collect chunk n (nextCursor chunk c) (q ++ [b]) := by
  rw [collect, nextCursor, h]
  by_cases sync : b = 0xAA#8 <;> simp [Config.sync, sync]

/-- A collection fails if its last cursor is past the chunk: at the first cursor that is, it stops. -/
theorem collect_eq_none {chunk : List Byte} {n c : Nat} (q : List Byte)
    (past : chunk.length ≤ (nextCursor chunk)^[n] c) : collect chunk (n + 1) c q = none := by
  induction n generalizing c q with
  | zero =>
    have outside : chunk[c]? = none := List.getElem?_eq_none past
    simp [collect, outside]
  | succ n ih =>
    cases h : chunk[c]? with
    | none => simp [collect, h]
    | some b => rw [collect_of_getElem? _ _ h, ih _ past]

/-- With a candidate, the scan collects four bytes from the second byte behind it (41_chunk_semantics.md R140). -/
theorem scan_of_firstCandidate {chunk : List Byte} {i : Nat} (found : firstCandidate chunk = some i) :
    scan chunk = resultOfCollected (collect chunk 4 (i + 2) []) := by
  rw [scan, found]
  rfl

/-- Only a chunk without a candidate is NO_SYNC (41_chunk_semantics.md section 2). -/
theorem firstCandidate_eq_none_iff_scan (chunk : List Byte) :
    firstCandidate chunk = none ↔ scan chunk = .incomplete .noSync := by
  cases found : firstCandidate chunk with
  | none => simp [scan, found]
  | some i =>
    rw [scan_of_firstCandidate found]
    obtain ⟨_, _, _, _, decoded⟩ | short := resultOfCollected_cases (collect chunk 4 (i + 2) [])
    · simp [decoded]
    · simp [short]

/-- Settles O47: the four reads of the collection are at the cursors, which go up. -/
theorem reasonCodesAtChunkLevel : Obligations.ReasonCodesAtChunkLevel := by
  unfold Obligations.ReasonCodesAtChunkLevel
  refine fun chunk => ⟨firstCandidate_eq_none_iff_scan chunk, ?_⟩
  rintro i found c0 c1 c2 c3 rfl h1 h2 h3
  obtain rfl : c1 = nextCursor chunk (i + 2) := h1
  obtain rfl : c2 = nextCursor chunk (nextCursor chunk (i + 2)) := h2
  obtain rfl : c3 = nextCursor chunk (nextCursor chunk (nextCursor chunk (i + 2))) := h3
  rw [scan_of_firstCandidate found]
  refine ⟨fun inside => ?_, fun past => ?_⟩
  · have within2 := (lt_nextCursor chunk _).trans inside
    have within1 := (lt_nextCursor chunk _).trans within2
    have within0 := (lt_nextCursor chunk _).trans within1
    have read : ∀ {c}, c < chunk.length → ∃ q, chunk[c]? = some q := fun h => ⟨_, List.getElem?_eq_getElem h⟩
    obtain ⟨q0, read0⟩ := read within0
    obtain ⟨q1, read1⟩ := read within1
    obtain ⟨q2, read2⟩ := read within2
    obtain ⟨q3, read3⟩ := read inside
    refine ⟨q0, q1, q2, q3, read0, read1, read2, read3, ?_⟩
    rw [collect_of_getElem? _ _ read0, collect_of_getElem? _ _ read1, collect_of_getElem? _ _ read2,
      collect_of_getElem? _ _ read3]
    rfl
  · rw [collect_eq_none (n := 3) [] past]
    rfl

/-! ### One frame per chunk -/

/-- From its first candidate on, the chunk begins with a candidate. -/
theorem firstCandidate_drop {chunk : List Byte} {i : Nat} (found : firstCandidate chunk = some i) :
    firstCandidate (chunk.drop i) = some 0 := by
  obtain ⟨candidate, -⟩ := (firstCandidate_eq_some_iff chunk i).mp found
  have shift : isCandidate (chunk.drop i) 0 = isCandidate chunk i := by simp [isCandidate, List.getElem?_drop]
  exact (firstCandidate_eq_some_iff _ 0).mpr ⟨shift.trans candidate, by simp⟩

/-- What stands before the first candidate does not matter (41_chunk_semantics.md section 3). -/
theorem scan_drop {chunk : List Byte} {i : Nat} (found : firstCandidate chunk = some i) :
    scan chunk = scan (chunk.drop i) := by
  rw [scan_of_firstCandidate found, scan_of_firstCandidate (firstCandidate_drop found), collect_drop,
    collect_drop (chunk.drop i), List.drop_drop]

/-- The first candidate stays the first, whatever follows the chunk. -/
theorem firstCandidate_append {chunk : List Byte} {i : Nat} (rest : List Byte)
    (found : firstCandidate chunk = some i) : firstCandidate (chunk ++ rest) = some i := by
  have h := firstCandidate_take_append (chunk.drop (i + 2) ++ rest) found
  rwa [← List.append_assoc, List.take_append_drop] at h

/-- A decoded chunk has a candidate behind which four bytes were collected. -/
theorem scan_eq_decoded {chunk : List Byte} {q0 q1 q2 q3 : Byte} (decoded : scan chunk = .decoded q0 q1 q2 q3) :
    ∃ i l, firstCandidate chunk = some i ∧ collect chunk 4 (i + 2) [] = some l ∧
      resultOfCollected (some l) = .decoded q0 q1 q2 q3 := by
  cases found : firstCandidate chunk with
  | none => simp [(firstCandidate_eq_none_iff_scan chunk).mp found] at decoded
  | some i =>
    rw [scan_of_firstCandidate found] at decoded
    cases collected : collect chunk 4 (i + 2) [] with
    | none => simp [collected, resultOfCollected] at decoded
    | some l => exact ⟨i, l, rfl, collected, collected ▸ decoded⟩

/-- Bytes after a decoded frame change nothing (41_chunk_semantics.md section 3). -/
theorem scan_append_of_decoded {chunk : List Byte} {q0 q1 q2 q3 : Byte} (rest : List Byte)
    (decoded : scan chunk = .decoded q0 q1 q2 q3) : scan (chunk ++ rest) = .decoded q0 q1 q2 q3 := by
  obtain ⟨i, l, found, collected, result⟩ := scan_eq_decoded decoded
  rw [scan_of_firstCandidate (firstCandidate_append rest found), collect_append rest collected, result]

/-- Settles O48: the collection reads only bytes from the candidate on, and stops at its fourth. -/
theorem oneFramePerChunk : Obligations.OneFramePerChunk := by
  unfold Obligations.OneFramePerChunk
  exact ⟨fun _ _ => scan_drop, fun _ rest _ _ _ _ => scan_append_of_decoded rest⟩

end Sys2Proof.Machine
end

section
/-! Frames (30_encoding.md sections 3 and 6): whole, cut short, and as the carrier of a 32-bit pattern
(41_chunk_semantics.md sections 3 and 4). -/

namespace Sys2Proof.Machine

/-! ### The search up to the frame -/

/-- Bytes without a candidate do not matter before a sync byte, even if the last of them is 0xAA
(41_chunk_semantics.md section 3). -/
theorem scan_append_sync {P : List Byte} (noCandidate : ∀ j, isCandidate P j = false) (rest : List Byte) :
    scan (P ++ Config.sync :: rest) = scan (Config.sync :: rest) := by
  induction P with
  | nil => rfl
  | cons a P ih =>
    have noneBehind : ∀ j, isCandidate P j = false := fun j => noCandidate (j + 1)
    have notHere : isCandidate (a :: (P ++ Config.sync :: rest)) 0 = false := by
      cases P with
      | nil => simp [isCandidate]
      | cons b P => exact noCandidate 0
    rw [List.cons_append, scan_cons_of_map (by simp [firstCandidate_cons, notHere]), ih noneBehind]

/-! ### The collection of stuffed bytes -/

/-- A stuffed byte is collected as the byte it was (30_encoding.md R77). -/
theorem collect_stuff (q : Byte) (rest : List Byte) (n : Nat) (collected : List Byte) :
    collect (stuff q ++ rest) (n + 1) 0 collected = collect rest n 0 (collected ++ [q]) := by
  by_cases sync : q = Config.sync
  · simp [stuff, sync, collect_cons_zero, collect_cons_succ]
  · simp [stuff, sync, collect_cons_zero]

/-- Cut within its stuffing, a stuffed byte leaves nothing to collect a further byte from. -/
theorem collect_take_stuff {q : Byte} {m : Nat} (cut : m < (stuff q).length) (n : Nat) (collected : List Byte) :
    collect ((stuff q).take m) (n + 2) 0 collected = none := by
  cases m with
  | zero => simp [collect]
  | succ m =>
    by_cases sync : q = Config.sync
    · obtain rfl : m = 0 := by simp [stuff, sync] at cut; omega
      simp [stuff, sync, collect]
    · simp [stuff, sync] at cut

/-- Four payload bytes stuffed, the last but for its stuffing byte: what `frameCore` sends behind the type byte. -/
def payloadCore (qs : List Byte) (last : Byte) : List Byte := qs.flatMap stuff ++ [last]

/-- Stuffed bytes are all collected, and what follows them is not read. -/
theorem collect_payloadCore (qs : List Byte) (last : Byte) (rest collected : List Byte) :
    collect (payloadCore qs last ++ rest) (qs.length + 1) 0 collected = some (collected ++ qs ++ [last]) := by
  induction qs generalizing collected with
  | nil => simp [payloadCore, collect]
  | cons q qs ih =>
    have head : payloadCore (q :: qs) last ++ rest = stuff q ++ (payloadCore qs last ++ rest) := by simp [payloadCore]
    rw [head, List.length_cons, collect_stuff, ih]
    simp

/-- Cut short anywhere, they are not all collected (70_reset_and_hazards.md section 2). -/
theorem collect_take_payloadCore {qs : List Byte} {last : Byte} {m : Nat} (cut : m < (payloadCore qs last).length)
    (collected : List Byte) : collect ((payloadCore qs last).take m) (qs.length + 1) 0 collected = none := by
  induction qs generalizing m collected with
  | nil =>
    obtain rfl : m = 0 := by simpa [payloadCore] using cut
    simp [collect]
  | cons q qs ih =>
    have head : payloadCore (q :: qs) last = stuff q ++ payloadCore qs last := by simp [payloadCore]
    rw [head, List.length_append] at cut
    rw [head, List.take_append, List.length_cons]
    by_cases within : m < (stuff q).length
    · rw [Nat.sub_eq_zero_of_le within.le, List.take_zero, List.append_nil]
      exact collect_take_stuff within _ _
    · rw [List.take_of_length_le (by omega), collect_stuff]
      exact ih (by omega) _

/-! ### Frames -/

/-- A frame is a sync byte, the type byte and the stuffed payload (30_encoding.md R84). -/
theorem frameCore_eq (t q0 q1 q2 q3 : Byte) :
    frameCore t q0 q1 q2 q3 = Config.sync :: t :: payloadCore [q0, q1, q2] q3 := by
  simp [frameCore, payloadCore]

/-- The whole frame has at most the stuffing byte of its fourth payload byte more. -/
theorem frame_eq_frameCore_append (t q0 q1 q2 q3 : Byte) :
    ∃ tail, frame t q0 q1 q2 q3 = frameCore t q0 q1 q2 q3 ++ tail := by
  by_cases sync : q3 = Config.sync
  · exact ⟨[Config.sync], by simp [frame, frameCore, stuff, sync]⟩
  · exact ⟨[], by simp [frame, frameCore, stuff, sync]⟩

/-- A frame type that may be sent is not 0xAA (30_encoding.md R75, R84). -/
theorem ne_sync_of_frameTypeWellFormed {t : Byte} (h : frameTypeWellFormed t = true) : t ≠ Config.sync := by
  simpa [frameTypeWellFormed] using h

/-- A frame without the last stuffing byte is decoded (41_chunk_semantics.md R150). -/
theorem scan_frameCore {P : List Byte} {t : Byte} (noCandidate : ∀ j, isCandidate P j = false)
    (typeOk : frameTypeWellFormed t = true) (X : List Byte) (q0 q1 q2 q3 : Byte) :
    scan (P ++ frameCore t q0 q1 q2 q3 ++ X) = .decoded q0 q1 q2 q3 := by
  rw [frameCore_eq, List.append_assoc, List.cons_append, List.cons_append, scan_append_sync noCandidate,
    scan_sync_type _ (ne_sync_of_frameTypeWellFormed typeOk)]
  exact congrArg resultOfCollected (collect_payloadCore [q0, q1, q2] q3 X [])

/-- So is a whole frame, whose last stuffing byte is one more byte behind it. -/
theorem scan_frame {P : List Byte} {t : Byte} (noCandidate : ∀ j, isCandidate P j = false)
    (typeOk : frameTypeWellFormed t = true) (X : List Byte) (q0 q1 q2 q3 : Byte) :
    scan (P ++ frame t q0 q1 q2 q3 ++ X) = .decoded q0 q1 q2 q3 := by
  obtain ⟨tail, whole⟩ := frame_eq_frameCore_append t q0 q1 q2 q3
  have decoded := scan_frameCore noCandidate typeOk (tail ++ X) q0 q1 q2 q3
  rwa [← List.append_assoc, List.append_assoc P, ← whole] at decoded

/-- Settles O49: the search passes over what stands before the frame, and the collection takes the stuffing back. -/
theorem frameIsDecoded : Obligations.FrameIsDecoded := by
  unfold Obligations.FrameIsDecoded
  exact fun P X t q0 q1 q2 q3 noCandidate typeOk =>
    ⟨scan_frame noCandidate typeOk X q0 q1 q2 q3, scan_frameCore noCandidate typeOk X q0 q1 q2 q3⟩

/-- Settles O51: up to the sync byte there is no candidate, and after it the collection runs out of bytes. -/
theorem splitFrameIsLost : Obligations.SplitFrameIsLost := by
  unfold Obligations.SplitFrameIsLost
  intro P t q0 q1 q2 q3 n noCandidate typeOk cut
  rw [frameCore_eq] at cut ⊢
  match n with
  | 0 => simpa using scan_of_no_candidate noCandidate
  | 1 => exact scan_append_sync noCandidate []
  | m + 2 =>
    have short := collect_take_payloadCore (qs := [q0, q1, q2]) (last := q3) (m := m) (by simpa using cut) []
    rw [List.take_succ_cons, List.take_succ_cons, scan_append_sync noCandidate,
      scan_sync_type _ (ne_sync_of_frameTypeWellFormed typeOk), if_neg (by omega)]
    exact congrArg resultOfCollected short

/-- A stuffed byte takes one byte, and one more if it is 0xAA. -/
theorem stuff_length (q : Byte) : (stuff q).length = 1 + [q].count 0xAA#8 := by
  by_cases sync : q = Config.sync
  · simp [stuff, sync, Config.sync]
  · have other : q ≠ 0xAA#8 := sync
    simp [stuff, sync, other]

/-- A frame's length, by the 0xAA among its payload bytes (30_encoding.md section 3). -/
theorem frame_length (t q0 q1 q2 q3 : Byte) :
    (frame t q0 q1 q2 q3).length = 6 + [q0, q1, q2, q3].count 0xAA#8 := by
  have split : [q0, q1, q2, q3] = [q0] ++ [q1] ++ [q2] ++ [q3] := rfl
  simp only [frame, split, List.length_append, List.count_append, stuff_length, List.length_cons, List.length_nil]
  omega

/-- Settles O52: at most four payload bytes are 0xAA. -/
theorem frameRawLength : Obligations.FrameRawLength := by
  unfold Obligations.FrameRawLength
  intro t q0 q1 q2 q3
  have stuffed : [q0, q1, q2, q3].count 0xAA#8 ≤ 4 := List.count_le_length
  have length := frame_length t q0 q1 q2 q3
  refine ⟨length, ?_, ?_, ?_⟩ <;>
    simp only [length, Config.minFrameRaw, Config.maxFrameRaw, Config.typeLen, Config.payloadLen, Config.chunkMax,
      HostRead] <;> omega

/-! ### The 32-bit pattern -/

/-- The word of a word's four bytes is the word (20_memory.md R53). -/
theorem payloadWord_wordByte (w : Word) :
    payloadWord (wordByte w 0) (wordByte w 1) (wordByte w 2) (wordByte w 3) = w := by
  have high : w.extractLsb' 24 8 ++ w.extractLsb' 16 8 = w.extractLsb' 16 16 :=
    BitVec.extractLsb'_append_extractLsb'_eq_extractLsb' rfl
  have upper : w.extractLsb' 16 16 ++ w.extractLsb' 8 8 = w.extractLsb' 8 24 :=
    BitVec.extractLsb'_append_extractLsb'_eq_extractLsb' rfl
  have whole : w.extractLsb' 8 24 ++ w.extractLsb' 0 8 = w := BitVec.extractLsb'_append_extractLsb'
  simp only [payloadWord, wordByte]
  exact (congrArg (· ++ w.extractLsb' 8 8 ++ w.extractLsb' 0 8) high).trans
    ((congrArg (· ++ w.extractLsb' 0 8) upper).trans whole)

/-- Settles O54: the fields lie side by side and cover the word. -/
theorem floatViewKeepsEveryBit : Obligations.FloatViewKeepsEveryBit := by
  unfold Obligations.FloatViewKeepsEveryBit
  intro w
  have high : w.extractLsb' 31 1 ++ w.extractLsb' 23 8 = w.extractLsb' 23 9 :=
    BitVec.extractLsb'_append_extractLsb'_eq_extractLsb' rfl
  have whole : w.extractLsb' 23 9 ++ w.extractLsb' 0 23 = w := BitVec.extractLsb'_append_extractLsb'
  exact (congrArg (· ++ w.extractLsb' 0 23) high).trans whole

/-- Settles O50: the frame is decoded to the word's four bytes, END publishes the word of these bytes, and it is the
word. -/
theorem framedWordComesBack : Obligations.FramedWordComesBack := by
  unfold Obligations.FramedWordComesBack
  intro w P X t s boundary noCandidate typeOk
  obtain ⟨u, run, result⟩ := runTokens_chunkTokens
    (P ++ frame t (wordByte w 0) (wordByte w 1) (wordByte w 2) (wordByte w 3) ++ X) boundary
  have published : u.publish.res = ResultRegs.ofDecoded w := by
    rw [State.publish_res_of_decoded (result.trans (scan_frame noCandidate typeOk X _ _ _ _)), payloadWord_wordByte]
  exact ⟨u.publish, _, run, by simp [published], by simp [published], by simp [State.hostPayload, published],
    by simp [published, floatViewKeepsEveryBit w]⟩

end Sys2Proof.Machine
end

section
/-! Token lines (30_encoding.md section 6). -/

namespace Sys2Proof.Machine

/-! ### Comments and trailing blanks -/

/-- A text without a semicolon that does not end in a blank: all of it is read. -/
def CommentFree (l : List Char) : Prop := ';' ∉ l ∧ l.reverse.head? ≠ some ' '

/-- Blanks behind such a text are dropped. -/
theorem dropWhile_blank_of_commentFree {l : List Char} (free : CommentFree l) :
    (l.reverse.dropWhile (· == ' ')).reverse = l := by
  obtain ⟨-, noBlank⟩ := free
  cases h : l.reverse with
  | nil => simpa using h.symm
  | cons c rest =>
    have other : c ≠ ' ' := by simpa [h] using noBlank
    rw [List.dropWhile_cons_of_neg (by simpa using other), ← h, List.reverse_reverse]

/-- Without a comment the line is read as it stands. -/
theorem stripComment_of_commentFree {l : List Char} (free : CommentFree l) : stripComment l = l := by
  have before : l.takeWhile (· != ';') = l :=
    List.takeWhile_eq_self_iff.mpr fun c inLine => by simpa using ne_of_mem_of_not_mem inLine free.1
  rw [stripComment, before, dropWhile_blank_of_commentFree free]

/-- A comment, and the blank before it, is not read (30_encoding.md R83). -/
theorem stripComment_append_comment {l : List Char} (free : CommentFree l) (comment : List Char) :
    stripComment (l ++ [' ', ';'] ++ comment) = l := by
  have notHere : ∀ c ∈ l, (c != ';') = true := fun c inLine => by
    simpa using ne_of_mem_of_not_mem inLine free.1
  have before : (l ++ [' ', ';'] ++ comment).takeWhile (· != ';') = l ++ [' '] := by
    rw [List.append_assoc, List.takeWhile_append_of_pos notHere]
    rfl
  rw [stripComment, before, List.reverse_append]
  exact dropWhile_blank_of_commentFree free

/-! ### Hexadecimal operands -/

/-- Reading takes back each of the sixteen digits (00_scope.md R10). -/
theorem hexValue_hexDigit : ∀ n < 16, hexValue (hexDigit n) = some n := by decide

/-- No digit is a semicolon or a blank. -/
theorem hexDigit_ne : ∀ n < 16, hexDigit n ≠ ';' ∧ hexDigit n ≠ ' ' := by decide

/-- The two digits of a byte. -/
theorem byte_digits_lt (b : Byte) : b.toNat / 16 < 16 ∧ b.toNat % 16 < 16 := by
  have := b.isLt
  omega

/-- A byte operand is read as the byte it was written from (30_encoding.md R83). -/
theorem parseByte_hexByte (b : Byte) : parseByte (hexByte b) = some b := by
  obtain ⟨high, low⟩ := byte_digits_lt b
  simp [parseByte, hexByte, hexValue_hexDigit _ high, hexValue_hexDigit _ low, Nat.div_add_mod]

/-- Behind a text without a semicolon, a byte operand makes one that is all read. -/
theorem commentFree_append_hexByte {text : List Char} (noSemicolon : ';' ∉ text) (b : Byte) :
    CommentFree (text ++ hexByte b) := by
  obtain ⟨high, low⟩ := byte_digits_lt b
  obtain ⟨high', -⟩ := hexDigit_ne _ high
  obtain ⟨low', noBlank⟩ := hexDigit_ne _ low
  exact ⟨by simp [noSemicolon, hexByte, high'.symm, low'.symm], by simp [hexByte, noBlank]⟩

/-! ### Token lines -/

/-- All of a token's line is read. -/
theorem tokenLine_commentFree (i : Instr) : CommentFree (tokenLine i) := by
  cases i with
  | idle => unfold CommentFree; decide
  | byte b => exact commentFree_append_hexByte (by simp [keyword]) b
  | endChunk => unfold CommentFree; decide
  | byteEnd b => exact commentFree_append_hexByte (by simp [keyword]) b
  | reset => unfold CommentFree; decide

/-- Any line that is read as a token's is parsed as that token (30_encoding.md R83). -/
theorem parseLine_of_stripComment {l : List Char} {i : Instr} (h : stripComment l = tokenLine i) :
    parseLine l = some i := by
  rw [parseLine, h]
  cases i with
  | idle => rfl
  | byte b => simp [tokenLine, keyword, parseByte_hexByte]
  | endChunk => rfl
  | byteEnd b => simp [tokenLine, keyword, parseByte_hexByte]
  | reset => rfl

/-- Settles O7: with or without a comment, what is read of the line is the token's own text. -/
theorem tokenLineParsesBack : Obligations.TokenLineParsesBack := by
  unfold Obligations.TokenLineParsesBack
  exact fun i comment =>
    ⟨parseLine_of_stripComment (stripComment_of_commentFree (tokenLine_commentFree i)),
      parseLine_of_stripComment (stripComment_append_comment (tokenLine_commentFree i) comment)⟩

end Sys2Proof.Machine
end
